-- ==== Sys2Proof/Word.lean ====
section
/-! DEFINITION. The word types of the NSI block: every width the spec gives a register, a bus value or a memory unit. -/

namespace Sys2Proof

/-- A byte: an LMEM or ABUF byte, a FIFO byte, an 8-bit register or bus value (R7, R80). -/
abbrev Byte := BitVec 8

/-- A 16-bit value: an `ADDR` or `VAL` field, a control-bus address or value, `RESULT` (R7, R111). -/
abbrev Half := BitVec 16

/-- A 32-bit TMEM entry or counter register (R46, R81). -/
abbrev Word32 := BitVec 32

/-- The 23-bit FIFO byte length (R7, R44). -/
abbrev FifoLen := BitVec 23

/-- A 64-bit command descriptor (R110). -/
abbrev Desc := BitVec 64

end Sys2Proof
end

