-- ==== Sys2Proof/Syntax.lean ====
section
/-! DEFINITION. The commands of the NSI block: one constructor for each row of spec/opcode_table.json (R120), with the free
fields of its descriptor as operands (R111, R115). -/

namespace Sys2Proof

/-- A command. `addr`, `val`, `tbase`, `tlen`, `lbase` and `llen` are the `ADDR` and `VAL` fields (R115); `bit` is the
4-bit `BIT` field (R114). -/
inductive Instr where
  /-- `NOP` (R144) -/
  | nop
  /-- `WR.A8D8` (R145) -/
  | wrA8D8 (addr val : Half)
  /-- `WR.A16D8` (R146) -/
  | wrA16D8 (addr val : Half)
  /-- `WR.A8D16` (R147) -/
  | wrA8D16 (addr val : Half)
  /-- `WR.A16D16` (R148) -/
  | wrA16D16 (addr val : Half)
  /-- `WR.TB` (R149) -/
  | wrTB (addr val : Half)
  /-- `RD.A8D8` (R155) -/
  | rdA8D8 (addr : Half)
  /-- `RD.A16D8` (R156) -/
  | rdA16D8 (addr : Half)
  /-- `RD.A8D16` (R157) -/
  | rdA8D16 (addr : Half)
  /-- `RD.A16D16` (R158) -/
  | rdA16D16 (addr : Half)
  /-- `RD.TB` (R159) -/
  | rdTB (addr : Half)
  /-- `TBL.A8D8` (R151) -/
  | tblA8D8 (tbase tlen : Half)
  /-- `TBL.A16D8` (R152) -/
  | tblA16D8 (tbase tlen : Half)
  /-- `TBL.A8D16` (R153) -/
  | tblA8D16 (tbase tlen : Half)
  /-- `TBL.A16D16` (R154) -/
  | tblA16D16 (tbase tlen : Half)
  /-- `SETB.A8D8` (R161) -/
  | setbA8D8 (addr : Half) (bit : BitVec 4)
  /-- `SETB.A16D8` (R161) -/
  | setbA16D8 (addr : Half) (bit : BitVec 4)
  /-- `SETB.A8D16` (R161) -/
  | setbA8D16 (addr : Half) (bit : BitVec 4)
  /-- `SETB.A16D16` (R161) -/
  | setbA16D16 (addr : Half) (bit : BitVec 4)
  /-- `SETB.TB` (R161) -/
  | setbTB (addr : Half) (bit : BitVec 4)
  /-- `CLRB.A8D8` (R162) -/
  | clrbA8D8 (addr : Half) (bit : BitVec 4)
  /-- `CLRB.A16D8` (R162) -/
  | clrbA16D8 (addr : Half) (bit : BitVec 4)
  /-- `CLRB.A8D16` (R162) -/
  | clrbA8D16 (addr : Half) (bit : BitVec 4)
  /-- `CLRB.A16D16` (R162) -/
  | clrbA16D16 (addr : Half) (bit : BitVec 4)
  /-- `CLRB.TB` (R162) -/
  | clrbTB (addr : Half) (bit : BitVec 4)
  /-- `GETB.A8D8` (R163) -/
  | getbA8D8 (addr : Half) (bit : BitVec 4)
  /-- `GETB.A16D8` (R163) -/
  | getbA16D8 (addr : Half) (bit : BitVec 4)
  /-- `GETB.A8D16` (R163) -/
  | getbA8D16 (addr : Half) (bit : BitVec 4)
  /-- `GETB.A16D16` (R163) -/
  | getbA16D16 (addr : Half) (bit : BitVec 4)
  /-- `GETB.TB` (R163) -/
  | getbTB (addr : Half) (bit : BitVec 4)
  /-- `CAPTURE` (R191) -/
  | capture
  /-- `DESELECT` (R207) -/
  | deselect
  /-- `NMEA.LINE` (R258) -/
  | nmeaLine (lbase llen : Half)
  /-- `NMEA.BUF` (R257) -/
  | nmeaBuf (lbase llen : Half)
deriving DecidableEq, Repr, Inhabited

end Sys2Proof
end

