-- ==== Sys2Proof/WellFormed.lean ====
section
/-! DEFINITION. Which commands an encoding can carry: the bit index of a bit operation on an 8-bit data port is at most 7 (R114).
Every other operand may have every value of its field (R115, R116). -/

namespace Sys2Proof

/-- R114: the bit index is below the data width of the port. On a 16-bit data port every 4-bit index is. -/
def Instr.wellFormed : Instr → Bool
  | .setbA8D8 _ bit | .setbA16D8 _ bit | .setbTB _ bit => bit.toNat ≤ 7
  | .clrbA8D8 _ bit | .clrbA16D8 _ bit | .clrbTB _ bit => bit.toNat ≤ 7
  | .getbA8D8 _ bit | .getbA16D8 _ bit | .getbTB _ bit => bit.toNat ≤ 7
  | .setbA8D16 _ _ | .setbA16D16 _ _ | .clrbA8D16 _ _ | .clrbA16D16 _ _ | .getbA8D16 _ _ | .getbA16D16 _ _ => true
  | .nop | .capture | .deselect => true
  | .wrA8D8 _ _ | .wrA16D8 _ _ | .wrA8D16 _ _ | .wrA16D16 _ _ | .wrTB _ _ => true
  | .rdA8D8 _ | .rdA16D8 _ | .rdA8D16 _ | .rdA16D16 _ | .rdTB _ => true
  | .tblA8D8 _ _ | .tblA16D8 _ _ | .tblA8D16 _ _ | .tblA16D16 _ _ => true
  | .nmeaLine _ _ | .nmeaBuf _ _ => true

end Sys2Proof
end

