-- ==== Sys2Proof/Decode.lean ====
section
/-! DEFINITION. The decoder and the encoder of command descriptors, from R111 to R120, and the legality test of R117. -/

namespace Sys2Proof

/-- Why a descriptor is illegal (R117, R293). -/
inductive DecodeError where
  /-- `OPC` is not one of the values of R113. -/
  | reservedOpcode
  /-- `RSV0` or `RSV1` is not zero. -/
  | reservedField
  /-- `PORT` is not one the operation may name. -/
  | badPort
  /-- `BIT` is not zero and the operation is no bit operation. -/
  | bitNotZero
  /-- `BIT` is not below the data width of the port (R114). -/
  | bitOutOfRange
  /-- `ADDR` is not zero and the operation does not use it. -/
  | addrNotZero
  /-- `VAL` is not zero and the operation does not use it. -/
  | valNotZero
deriving DecidableEq, Repr, Inhabited

/-- `OPC`, bits 7:0 (R111). -/
def opcField (c : Desc) : Byte := c.extractLsb' 0 8
/-- `PORT`, bits 10:8 (R111). -/
def portField (c : Desc) : BitVec 3 := c.extractLsb' 8 3
/-- `RSV0`, bit 11 (R111). -/
def rsv0Field (c : Desc) : BitVec 1 := c.extractLsb' 11 1
/-- `BIT`, bits 15:12 (R111). -/
def bitField (c : Desc) : BitVec 4 := c.extractLsb' 12 4
/-- `ADDR`, bits 31:16 (R111). -/
def addrField (c : Desc) : Half := c.extractLsb' 16 16
/-- `VAL`, bits 47:32 (R111). -/
def valField (c : Desc) : Half := c.extractLsb' 32 16
/-- `RSV1`, bits 63:48 (R111). -/
def rsv1Field (c : Desc) : BitVec 16 := c.extractLsb' 48 16

/-- A command without operands: `PORT`, `BIT`, `ADDR` and `VAL` are zero (R117 items 3, 4 and 6). -/
def decodePlain (i : Instr) (port : BitVec 3) (bit : BitVec 4) (addr val : Half) : Except DecodeError Instr :=
  if port ≠ 0 then .error .badPort
  else if bit ≠ 0 then .error .bitNotZero
  else if addr ≠ 0 then .error .addrNotZero
  else if val ≠ 0 then .error .valNotZero
  else .ok i

/-- WR: `PORT` 0 to 4, `BIT` zero (R117). -/
def decodeWr (port : BitVec 3) (bit : BitVec 4) (addr val : Half) : Except DecodeError Instr :=
  if bit ≠ 0 then .error .bitNotZero else
  match port.toNat with
  | 0 => .ok (.wrA8D8 addr val)
  | 1 => .ok (.wrA16D8 addr val)
  | 2 => .ok (.wrA8D16 addr val)
  | 3 => .ok (.wrA16D16 addr val)
  | 4 => .ok (.wrTB addr val)
  | _ => .error .badPort

/-- RD: `PORT` 0 to 4, `BIT` and `VAL` zero (R117). -/
def decodeRd (port : BitVec 3) (bit : BitVec 4) (addr val : Half) : Except DecodeError Instr :=
  if bit ≠ 0 then .error .bitNotZero
  else if val ≠ 0 then .error .valNotZero else
  match port.toNat with
  | 0 => .ok (.rdA8D8 addr)
  | 1 => .ok (.rdA16D8 addr)
  | 2 => .ok (.rdA8D16 addr)
  | 3 => .ok (.rdA16D16 addr)
  | 4 => .ok (.rdTB addr)
  | _ => .error .badPort

/-- TBL: `PORT` 0 to 3, since a register table goes over the control bus; `BIT` zero (R117). -/
def decodeTbl (port : BitVec 3) (bit : BitVec 4) (addr val : Half) : Except DecodeError Instr :=
  if bit ≠ 0 then .error .bitNotZero else
  match port.toNat with
  | 0 => .ok (.tblA8D8 addr val)
  | 1 => .ok (.tblA16D8 addr val)
  | 2 => .ok (.tblA8D16 addr val)
  | 3 => .ok (.tblA16D16 addr val)
  | _ => .error .badPort

/-- SETB: `PORT` 0 to 4, `BIT` below the port's data width, `VAL` zero (R114, R117). -/
def decodeSetb (port : BitVec 3) (bit : BitVec 4) (addr val : Half) : Except DecodeError Instr :=
  if val ≠ 0 then .error .valNotZero else
  match port.toNat with
  | 0 => if bit.toNat ≤ 7 then .ok (.setbA8D8 addr bit) else .error .bitOutOfRange
  | 1 => if bit.toNat ≤ 7 then .ok (.setbA16D8 addr bit) else .error .bitOutOfRange
  | 2 => .ok (.setbA8D16 addr bit)
  | 3 => .ok (.setbA16D16 addr bit)
  | 4 => if bit.toNat ≤ 7 then .ok (.setbTB addr bit) else .error .bitOutOfRange
  | _ => .error .badPort

/-- CLRB: `PORT` 0 to 4, `BIT` below the port's data width, `VAL` zero (R114, R117). -/
def decodeClrb (port : BitVec 3) (bit : BitVec 4) (addr val : Half) : Except DecodeError Instr :=
  if val ≠ 0 then .error .valNotZero else
  match port.toNat with
  | 0 => if bit.toNat ≤ 7 then .ok (.clrbA8D8 addr bit) else .error .bitOutOfRange
  | 1 => if bit.toNat ≤ 7 then .ok (.clrbA16D8 addr bit) else .error .bitOutOfRange
  | 2 => .ok (.clrbA8D16 addr bit)
  | 3 => .ok (.clrbA16D16 addr bit)
  | 4 => if bit.toNat ≤ 7 then .ok (.clrbTB addr bit) else .error .bitOutOfRange
  | _ => .error .badPort

/-- GETB: `PORT` 0 to 4, `BIT` below the port's data width, `VAL` zero (R114, R117). -/
def decodeGetb (port : BitVec 3) (bit : BitVec 4) (addr val : Half) : Except DecodeError Instr :=
  if val ≠ 0 then .error .valNotZero else
  match port.toNat with
  | 0 => if bit.toNat ≤ 7 then .ok (.getbA8D8 addr bit) else .error .bitOutOfRange
  | 1 => if bit.toNat ≤ 7 then .ok (.getbA16D8 addr bit) else .error .bitOutOfRange
  | 2 => .ok (.getbA8D16 addr bit)
  | 3 => .ok (.getbA16D16 addr bit)
  | 4 => if bit.toNat ≤ 7 then .ok (.getbTB addr bit) else .error .bitOutOfRange
  | _ => .error .badPort

/-- NMEA.LINE and NMEA.BUF: `PORT` and `BIT` zero (R117). -/
def decodeRange (i : Half → Half → Instr) (port : BitVec 3) (bit : BitVec 4) (addr val : Half) :
    Except DecodeError Instr :=
  if port ≠ 0 then .error .badPort
  else if bit ≠ 0 then .error .bitNotZero
  else .ok (i addr val)

/-- The operation codes of R113; every other value is reserved. -/
def decodeFields (opc : Byte) (port : BitVec 3) (bit : BitVec 4) (addr val : Half) : Except DecodeError Instr :=
  match opc.toNat with
  | 0x00 => decodePlain .nop port bit addr val
  | 0x01 => decodeWr port bit addr val
  | 0x02 => decodeRd port bit addr val
  | 0x03 => decodeTbl port bit addr val
  | 0x04 => decodeSetb port bit addr val
  | 0x05 => decodeClrb port bit addr val
  | 0x06 => decodeGetb port bit addr val
  | 0x10 => decodePlain .capture port bit addr val
  | 0x11 => decodePlain .deselect port bit addr val
  | 0x20 => decodeRange .nmeaLine port bit addr val
  | 0x21 => decodeRange .nmeaBuf port bit addr val
  | _ => .error .reservedOpcode

/-- The command a descriptor stands for, or why it is illegal (R110 to R120). -/
def decode (c : Desc) : Except DecodeError Instr :=
  if rsv0Field c ≠ 0 ∨ rsv1Field c ≠ 0 then .error .reservedField
  else decodeFields (opcField c) (portField c) (bitField c) (addrField c) (valField c)

/-- A descriptor from its fields, most significant first; the reserved fields are zero (R111). -/
def assemble (opc : Byte) (port : BitVec 3) (bit : BitVec 4) (addr val : Half) : Desc :=
  0#16 ++ val ++ addr ++ bit ++ 0#1 ++ port ++ opc

/-- The descriptor of a command (R111, R120, R121). -/
def encode : Instr → Desc
  | .nop => assemble 0x00 0 0 0 0
  | .wrA8D8 addr val => assemble 0x01 0 0 addr val
  | .wrA16D8 addr val => assemble 0x01 1 0 addr val
  | .wrA8D16 addr val => assemble 0x01 2 0 addr val
  | .wrA16D16 addr val => assemble 0x01 3 0 addr val
  | .wrTB addr val => assemble 0x01 4 0 addr val
  | .rdA8D8 addr => assemble 0x02 0 0 addr 0
  | .rdA16D8 addr => assemble 0x02 1 0 addr 0
  | .rdA8D16 addr => assemble 0x02 2 0 addr 0
  | .rdA16D16 addr => assemble 0x02 3 0 addr 0
  | .rdTB addr => assemble 0x02 4 0 addr 0
  | .tblA8D8 tbase tlen => assemble 0x03 0 0 tbase tlen
  | .tblA16D8 tbase tlen => assemble 0x03 1 0 tbase tlen
  | .tblA8D16 tbase tlen => assemble 0x03 2 0 tbase tlen
  | .tblA16D16 tbase tlen => assemble 0x03 3 0 tbase tlen
  | .setbA8D8 addr bit => assemble 0x04 0 bit addr 0
  | .setbA16D8 addr bit => assemble 0x04 1 bit addr 0
  | .setbA8D16 addr bit => assemble 0x04 2 bit addr 0
  | .setbA16D16 addr bit => assemble 0x04 3 bit addr 0
  | .setbTB addr bit => assemble 0x04 4 bit addr 0
  | .clrbA8D8 addr bit => assemble 0x05 0 bit addr 0
  | .clrbA16D8 addr bit => assemble 0x05 1 bit addr 0
  | .clrbA8D16 addr bit => assemble 0x05 2 bit addr 0
  | .clrbA16D16 addr bit => assemble 0x05 3 bit addr 0
  | .clrbTB addr bit => assemble 0x05 4 bit addr 0
  | .getbA8D8 addr bit => assemble 0x06 0 bit addr 0
  | .getbA16D8 addr bit => assemble 0x06 1 bit addr 0
  | .getbA8D16 addr bit => assemble 0x06 2 bit addr 0
  | .getbA16D16 addr bit => assemble 0x06 3 bit addr 0
  | .getbTB addr bit => assemble 0x06 4 bit addr 0
  | .capture => assemble 0x10 0 0 0 0
  | .deselect => assemble 0x11 0 0 0 0
  | .nmeaLine lbase llen => assemble 0x20 0 0 lbase llen
  | .nmeaBuf lbase llen => assemble 0x21 0 0 lbase llen

/-- Whether `opc` is one of the values of R113. -/
def knownOpcode (opc : Byte) : Bool :=
  opc.toNat ≤ 0x06 || opc.toNat == 0x10 || opc.toNat == 0x11 || opc.toNat == 0x20 || opc.toNat == 0x21

/-- Whether `opc` is SETB, CLRB or GETB (R113). -/
def isBitOpcode (opc : Byte) : Bool := opc.toNat == 0x04 || opc.toNat == 0x05 || opc.toNat == 0x06

/-- R117 item 3: the ports an operation may name. -/
def legalPort (opc : Byte) (port : BitVec 3) : Bool :=
  if opc.toNat == 0x01 || opc.toNat == 0x02 || isBitOpcode opc then port.toNat ≤ 4
  else if opc.toNat == 0x03 then port.toNat ≤ 3
  else port == 0

/-- R117 item 4 with R114: `BIT` is zero, or is a bit index below the data width of the port. -/
def legalBit (opc : Byte) (port : BitVec 3) (bit : BitVec 4) : Bool :=
  if isBitOpcode opc then port.toNat == 2 || port.toNat == 3 || bit.toNat ≤ 7 else bit == 0

/-- R117 items 5 and 6: the operand fields an operation does not use are zero. -/
def legalOperands (opc : Byte) (addr val : Half) : Bool :=
  (!(opc.toNat == 0x02 || isBitOpcode opc) || val == 0) &&
  (!(opc.toNat == 0x00 || opc.toNat == 0x10 || opc.toNat == 0x11) || (addr == 0 && val == 0))

/-- R117: the descriptor is legal. -/
def legal (c : Desc) : Bool :=
  knownOpcode (opcField c) && (rsv0Field c == 0 && rsv1Field c == 0) &&
  legalPort (opcField c) (portField c) && legalBit (opcField c) (portField c) (bitField c) &&
  legalOperands (opcField c) (addrField c) (valField c)

/-- A row of the opcode table: the descriptors `c` with `c & mask = pattern` (R117, R120). -/
structure TableRow where
  mnemonic : String
  pattern : Desc
  mask : Desc
deriving DecidableEq, Repr

/-- Whether a row of the table matches a descriptor (R117). -/
def TableRow.covers (r : TableRow) (c : Desc) : Bool := c &&& r.mask == r.pattern

/-- The rows of R120 for NOP, WR, RD and TBL. -/
def opcodeRowsPlain : List TableRow := [
  ⟨"NOP", 0x0000000000000000, 0xFFFFFFFFFFFFFFFF⟩,
  ⟨"WR.A8D8", 0x0000000000000001, 0xFFFF00000000FFFF⟩,
  ⟨"WR.A16D8", 0x0000000000000101, 0xFFFF00000000FFFF⟩,
  ⟨"WR.A8D16", 0x0000000000000201, 0xFFFF00000000FFFF⟩,
  ⟨"WR.A16D16", 0x0000000000000301, 0xFFFF00000000FFFF⟩,
  ⟨"WR.TB", 0x0000000000000401, 0xFFFF00000000FFFF⟩,
  ⟨"RD.A8D8", 0x0000000000000002, 0xFFFFFFFF0000FFFF⟩,
  ⟨"RD.A16D8", 0x0000000000000102, 0xFFFFFFFF0000FFFF⟩,
  ⟨"RD.A8D16", 0x0000000000000202, 0xFFFFFFFF0000FFFF⟩,
  ⟨"RD.A16D16", 0x0000000000000302, 0xFFFFFFFF0000FFFF⟩,
  ⟨"RD.TB", 0x0000000000000402, 0xFFFFFFFF0000FFFF⟩,
  ⟨"TBL.A8D8", 0x0000000000000003, 0xFFFF00000000FFFF⟩,
  ⟨"TBL.A16D8", 0x0000000000000103, 0xFFFF00000000FFFF⟩,
  ⟨"TBL.A8D16", 0x0000000000000203, 0xFFFF00000000FFFF⟩,
  ⟨"TBL.A16D16", 0x0000000000000303, 0xFFFF00000000FFFF⟩]

/-- The rows of R120 for the bit operations, the capture engine and the decoder. -/
def opcodeRowsRest : List TableRow := [
  ⟨"SETB.A8D8", 0x0000000000000004, 0xFFFFFFFF00008FFF⟩,
  ⟨"SETB.A16D8", 0x0000000000000104, 0xFFFFFFFF00008FFF⟩,
  ⟨"SETB.A8D16", 0x0000000000000204, 0xFFFFFFFF00000FFF⟩,
  ⟨"SETB.A16D16", 0x0000000000000304, 0xFFFFFFFF00000FFF⟩,
  ⟨"SETB.TB", 0x0000000000000404, 0xFFFFFFFF00008FFF⟩,
  ⟨"CLRB.A8D8", 0x0000000000000005, 0xFFFFFFFF00008FFF⟩,
  ⟨"CLRB.A16D8", 0x0000000000000105, 0xFFFFFFFF00008FFF⟩,
  ⟨"CLRB.A8D16", 0x0000000000000205, 0xFFFFFFFF00000FFF⟩,
  ⟨"CLRB.A16D16", 0x0000000000000305, 0xFFFFFFFF00000FFF⟩,
  ⟨"CLRB.TB", 0x0000000000000405, 0xFFFFFFFF00008FFF⟩,
  ⟨"GETB.A8D8", 0x0000000000000006, 0xFFFFFFFF00008FFF⟩,
  ⟨"GETB.A16D8", 0x0000000000000106, 0xFFFFFFFF00008FFF⟩,
  ⟨"GETB.A8D16", 0x0000000000000206, 0xFFFFFFFF00000FFF⟩,
  ⟨"GETB.A16D16", 0x0000000000000306, 0xFFFFFFFF00000FFF⟩,
  ⟨"GETB.TB", 0x0000000000000406, 0xFFFFFFFF00008FFF⟩,
  ⟨"CAPTURE", 0x0000000000000010, 0xFFFFFFFFFFFFFFFF⟩,
  ⟨"DESELECT", 0x0000000000000011, 0xFFFFFFFFFFFFFFFF⟩,
  ⟨"NMEA.LINE", 0x0000000000000020, 0xFFFF00000000FFFF⟩,
  ⟨"NMEA.BUF", 0x0000000000000021, 0xFFFF00000000FFFF⟩]

/-- The opcode map of R120. -/
def opcodeRows : List TableRow := opcodeRowsPlain ++ opcodeRowsRest

/-- The command the decoder reads from a descriptor given as a number, bit 0 least significant (R10, R110). A row has 64
bits, one descriptor; bits from `nbits` upward count as zero. -/
def decodeTableWord (nbits w : Nat) : Option Instr :=
  (decode (BitVec.ofNat 64 (w % 2 ^ nbits))).toOption

end Sys2Proof
end

