-- ==== Sys2Proof/Config.lean ====
section
/-! DEFINITION. What an implementation fixes (the parameters of R6), what the block asks its environment (the primitives
of R14), and the free values: constants without a body, so that nothing can be proved of their values. -/

namespace Sys2Proof

/-- An address or data width of a control-bus access, 8 or 16 bits (R7, R14). -/
inductive Width where
  | w8
  | w16
deriving DecidableEq, Repr, Inhabited

/-- The external primitives of R14. Control-bus addresses and values are held zero-extended to 16 bits (R10). -/
inductive Prim where
  /-- `CB_WRITE(aw, dw, a, v)` -/
  | cbWrite (aw dw : Width) (a v : Half)
  /-- `CB_READ(aw, dw, a)` -/
  | cbRead (aw dw : Width) (a : Half)
  /-- `TB_WRITE(a, v)` -/
  | tbWrite (a v : Byte)
  /-- `TB_READ(a)` -/
  | tbRead (a : Byte)
  /-- `BURST_BEGIN()` -/
  | burstBegin
  /-- `XFER(o)` -/
  | xfer (o : Byte)
  /-- `CS_ASSERT()` -/
  | csAssert
  /-- `CS_DEASSERT()` -/
  | csDeassert
  /-- `DELAY_MS(n)` -/
  | delayMs (n : Nat)
  /-- `SINK_WRITE(s)` -/
  | sinkWrite (s : List Byte)
deriving DecidableEq, Repr, Inhabited

/-- The environment's answer to a primitive (R14): `Ok(v)`, zero-extended to 16 bits, or `Err`.
An `Ok` without a value is `ok 0`. -/
inductive Answer where
  | ok (v : Half)
  | err
deriving DecidableEq, Repr, Inhabited

/-- One event of the history `H`: a primitive call and its answer (R9). -/
structure Event where
  prim : Prim
  answer : Answer
deriving DecidableEq, Repr, Inhabited

/-- The configuration: the OPEN parameters of R6, and `HOST_BASE` (R93, I15). A parameter with a range is held as its offset from the range's least
value, so that every inhabitant is a configuration R6 allows (log 8). -/
structure Params where
  /-- `BUF_CAP - 2`; `2 <= BUF_CAP <= 0xFFFFFFFF` -/
  bufCapLess2 : Fin 0xFFFFFFFE
  /-- `MAX_FIFO_SIZE - 1`; `1 <= MAX_FIFO_SIZE <= 0x7FFFFF` -/
  maxFifoSizeLess1 : Fin 0x7FFFFF
  /-- `POLL_LIMIT - 1`; `1 <= POLL_LIMIT <= 0xFFFFFFFF` -/
  pollLimitLess1 : Fin 0xFFFFFFFF
  /-- `TMEM_ENTRIES - 1`; `1 <= TMEM_ENTRIES <= 65536` -/
  tmemEntriesLess1 : Fin 65536
  /-- `LMEM_BYTES - 1`; `1 <= LMEM_BYTES <= 65536` -/
  lmemBytesLess1 : Fin 65536
  /-- `REG_FIFO_CTRL` -/
  regFifoCtrl : Byte
  /-- `MASK_FIFO_CLEAR` -/
  maskFifoClear : Byte
  /-- `MASK_FIFO_START` -/
  maskFifoStart : Byte
  /-- `REG_TRIG` -/
  regTrig : Byte
  /-- `MASK_CAP_DONE - 1`; the mask is a non-zero byte -/
  maskCapDoneLess1 : Fin 255
  /-- `REG_SIZE1` -/
  regSize1 : Byte
  /-- `REG_SIZE2` -/
  regSize2 : Byte
  /-- `REG_SIZE3` -/
  regSize3 : Byte
  /-- `HOST_BASE`: where the platform places the block in the host's address map, OPEN (R93, D48, I15). The host actions of
  R306 name registers by their index, so no step reads it. That a placement is a natural number is the model's choice
  (DESIGN CHOICE, log 20). -/
  hostBase : Nat
deriving DecidableEq, Repr, Inhabited

/-- `BUF_CAP`, the capacity of ABUF in bytes (R6, D19). -/
def Params.bufCap (c : Params) : Nat := c.bufCapLess2.val + 2

/-- `MAX_FIFO_SIZE` (R6, R197, D18). -/
def Params.maxFifoSize (c : Params) : Nat := c.maxFifoSizeLess1.val + 1

/-- `POLL_LIMIT` (R6, R195, D16). -/
def Params.pollLimit (c : Params) : Nat := c.pollLimitLess1.val + 1

/-- `TMEM_ENTRIES` (R6, R81, D12). -/
def Params.tmemEntries (c : Params) : Nat := c.tmemEntriesLess1.val + 1

/-- `LMEM_BYTES` (R6, R83, D31). -/
def Params.lmemBytes (c : Params) : Nat := c.lmemBytesLess1.val + 1

/-- `MASK_CAP_DONE`, a non-zero byte (R6, D15). -/
def Params.maskCapDone (c : Params) : Byte := BitVec.ofNat 8 (c.maskCapDoneLess1.val + 1)

/-- `DELAY_16_MS = 1` (R6, D9). -/
def Config.delay16Ms : Nat := 1

/-- `XFER_DUMMY = 0x00` (R6, D20). -/
def Config.xferDummy : Byte := 0x00

/-- The configuration of the machine after `State.reset`: OPEN, so without a body (R6, I15; log 7). -/
opaque Config.params : Params

/-- The environment's answer where no scripted answer is given, under no law (R8, R14; log 3): it may depend on the
whole event history and on the primitive. -/
opaque Config.freeAnswer : List Event → Prim → Answer

/-- The `n`-th drawn value, any 16-bit value (R15 `draw()`, R143, I1; log 9). -/
opaque Config.freeDraw : Nat → Half

/-- How many bytes of a failed sink write the sink took: any prefix (R85, I4; log 15). -/
opaque Config.freeTaken : List Event → Nat

/-- `ROUND_LOC`: how an implementation presents an exact location value to a host that needs a fixed format (R6, D38).
The model keeps exact values and no step uses it. R6 does not say what a presentation is: that it is a `String` is the
model's choice (DESIGN CHOICE, log 20). -/
opaque Config.roundLoc : Rat → String

end Sys2Proof
end

