-- ==== Sys2Proof/Machine/State.lean ====
section
/-! DEFINITION. The state of the NSI block (10_state.md, 20_memory.md), the reasons a step can stop, and the state after
reset (70_reset_and_hazards.md). -/

namespace Sys2Proof.Machine

/-- The outcome codes of R290; code 15 never occurs. Their numbers are given by `ErrCode.code`. -/
inductive ErrCode where
  | ok
  | busError
  | emptyBuffer
  | bufferOverflow
  | incompleteFrame
  | captureTimeout
  | checksumDelimiterMissing
  | checksumMismatch
  | truncatedSentence
  | unknownSentence
  | sinkError
  | cancelled
  | illegalCommand
  | rangeError
  | csNotReleased
deriving DecidableEq, Repr, Inhabited

/-- `ERR_INFO.PRIM`: the primitive whose `Err` answer ended the command (R42). -/
inductive PrimCode where
  | none
  | cbWrite
  | cbRead
  | tbWrite
  | tbRead
  | burstBegin
  | xfer
  | sinkWrite
deriving DecidableEq, Repr, Inhabited

/-- `STATUS.CAP_STATE`: the four states of the capture engine (R38, R190). -/
inductive CapState where
  | idle
  | armed
  | streaming
  | done
deriving DecidableEq, Repr, Inhabited

/-- `STATUS.CS_STATE`: what the block knows of the chip-select line (R40). -/
inductive CsState where
  | deselected
  | asserted
  | unknown
deriving DecidableEq, Repr, Inhabited

/-- Which `STORE` of CAPTURE a rotation interrupts (R199 to R203): the two marker bytes of `START_OF_FRAME`, or the byte
pulled inside a frame. -/
inductive StoreSite where
  | startFF
  | startD8
  | data
deriving DecidableEq, Repr, Inhabited

/-- `PC_SEQ` (R50): the program point of the executing command. A point other than `idle` and `start` is named after the
primitive issued last, whose answer the next step acts upon (R9; log 5). -/
inductive Point where
  /-- no command is executing -/
  | idle
  /-- the first program point of the command (R118) -/
  | start
  /-- a 16-bit-address write was issued; its `DELAY_MS` is next (R142) -/
  | delay
  /-- the register write, and its delay if it has one, was issued (R142) -/
  | written
  /-- the register read was issued (R143) -/
  | read
  /-- CAPTURE: the first arming write was issued (R194) -/
  | armClear
  /-- CAPTURE: the second arming write was issued (R194) -/
  | armStart
  /-- CAPTURE: a poll of the trigger-status register was issued (R195) -/
  | polled
  /-- CAPTURE: the first size register read was issued (R196) -/
  | size1
  /-- CAPTURE: the second size register read was issued (R196) -/
  | size2
  /-- CAPTURE: the third size register read was issued (R196) -/
  | size3
  /-- CAPTURE: the `CS_ASSERT` that opens the burst was issued (R198) -/
  | csAsserted
  /-- CAPTURE: the first `BURST_BEGIN` was issued (R198) -/
  | burstOpen
  /-- CAPTURE: an `XFER` was issued (R199) -/
  | pulled
  /-- CAPTURE: the `CS_DEASSERT` of a rotation was issued (R203) -/
  | rotDeasserted (site : StoreSite)
  /-- CAPTURE: the `SINK_WRITE` of a rotation was issued (R203) -/
  | rotFlushed (site : StoreSite)
  /-- CAPTURE: the `CS_ASSERT` of a rotation was issued (R203) -/
  | rotAsserted (site : StoreSite)
  /-- CAPTURE: the `BURST_BEGIN` of a rotation was issued (R203) -/
  | rotBurst (site : StoreSite)
  /-- CAPTURE: the `SINK_WRITE` of the end of frame was issued (R201) -/
  | eofFlushed
  /-- CAPTURE: the `CS_DEASSERT` of the end of frame was issued (R201) -/
  | eofDeasserted
  /-- CAPTURE: the `CS_DEASSERT` after the length is exhausted was issued (R204) -/
  | exhausted
  /-- DESELECT: its `CS_DEASSERT` was issued (R207) -/
  | deselected
deriving DecidableEq, Repr, Inhabited

/-- The sign of a coordinate (R47, R249). -/
inductive Sign where
  | pos
  | neg
  | unknown
deriving DecidableEq, Repr, Inhabited

/-- A coordinate: an exact magnitude and a sign (R47). No signed value is defined for sign `unknown` (I16). -/
structure Coord where
  mag : Rat
  sign : Sign
deriving DecidableEq, Repr, Inhabited

/-- The seven location registers, each absent or a value (R47). -/
structure Loc where
  /-- `LOC_LAT` -/
  lat : Option Coord := none
  /-- `LOC_LON` -/
  lon : Option Coord := none
  /-- `LOC_ALT` -/
  alt : Option Rat := none
  /-- `LOC_SPD` -/
  spd : Option Rat := none
  /-- `LOC_CRS` -/
  crs : Option Rat := none
  /-- `LOC_FIXQ` -/
  fixq : Option Nat := none
  /-- `LOC_NSAT` -/
  nsat : Option Nat := none
deriving DecidableEq, Repr, Inhabited

/-- What a host read of a register returns: a word zero-extended to 64 bits, or a location register's content (R47, R49). -/
inductive HostValue where
  | word (v : BitVec 64)
  | coord (v : Option Coord)
  | number (v : Option Rat)
  | count (v : Option Nat)
deriving DecidableEq, Repr, Inhabited

/-- The host's actions (R306). A register write carries 64 bits; a narrower register takes the low ones. -/
inductive HostAction where
  /-- write `v` to the register of this index -/
  | writeReg (index : Nat) (v : BitVec 64)
  /-- write an entry to `TMEM[i]` -/
  | writeTmem (i : Nat) (e : Word32)
  /-- write a byte to `LMEM[i]` -/
  | writeLmem (i : Nat) (b : Byte)
  /-- read the register of this index -/
  | readReg (index : Nat)
  /-- reset (R320) -/
  | reset
deriving DecidableEq, Repr, Inhabited

/-- One turn of the schedule: a host action, or one step of the sequencer (R9, R306; log 2). -/
inductive Turn where
  | host (a : HostAction)
  | sequencer
deriving DecidableEq, Repr, Inhabited

/-- A memory as the list of its written cells, by strictly rising address; an unlisted address is unwritten (R322).
LMEM and ABUF are lists of `Host.Cell`. -/
abbrev Memory (α : Type) := List (Nat × α)

/-- The state of the block (R30), what it has done to its environment, and the model's own fields (INVENTORY.md). -/
structure State where
  /-- the configuration of R6 and R93; no step changes it (log 7) -/
  cfg : Params
  /-- `CMD_LAST` (R31) -/
  cmdLast : Desc
  /-- `STATUS.BUSY` (R34) -/
  busy : Bool
  /-- `STATUS.OVR` (R35) -/
  ovr : Bool
  /-- `STATUS.CANCEL_PENDING` (R36) -/
  cancelPending : Bool
  /-- `STATUS.ERR` (R37) -/
  err : ErrCode
  /-- `STATUS.CAP_STATE` (R38) -/
  capState : CapState
  /-- `STATUS.IN_FRAME` (R39) -/
  inFrame : Bool
  /-- `STATUS.CS_STATE` (R40) -/
  csState : CsState
  /-- `RESULT` (R41) -/
  result : Half
  /-- whether `RESULT` has been written since reset (R322) -/
  resultWritten : Bool
  /-- `ERR_INFO.PRIM` (R42) -/
  errPrim : PrimCode
  /-- `ERR_INFO.IDX` (R42) -/
  errIdx : Half
  /-- `TBL_COUNT` (R43) -/
  tblCount : Half
  /-- `CAP_LEN[22:0]` (R44) -/
  capLen : FifoLen
  /-- `CAP_REMAIN[22:0]` (R44) -/
  capRemain : FifoLen
  /-- `CAP_CURSOR` (R45) -/
  capCursor : Word32
  /-- `PREV`, `CAP_WIN[15:8]` (R45) -/
  capPrev : Byte
  /-- `CUR`, `CAP_WIN[7:0]` (R45) -/
  capCur : Byte
  /-- `CAP_OUT` (R46) -/
  capOut : Word32
  /-- `POLL_COUNT` (R46) -/
  pollCount : Word32
  /-- `NMEA_OK` (R48) -/
  nmeaOk : Half
  /-- `NMEA_BAD` (R48) -/
  nmeaBad : Half
  /-- `NMEA_UNK` (R48) -/
  nmeaUnk : Half
  /-- `LOC_LAT` to `LOC_NSAT` (R47) -/
  loc : Loc
  /-- `CUR_CMD` (R50) -/
  curCmd : Desc
  /-- `PC_SEQ` (R50) -/
  pcSeq : Point
  /-- `TI` (R50) -/
  ti : Half
  /-- `RMW_V` (R50) -/
  rmwV : Half
  /-- TMEM: the written entries (R81) -/
  tmem : Memory Word32
  /-- LMEM: the written bytes (R83) -/
  lmem : List Host.Cell
  /-- ABUF: the written bytes (R84) -/
  abuf : List Host.Cell
  /-- the event history `H`, oldest first (R9) -/
  hist : List Event
  /-- the output sink's bytes, oldest first (R85) -/
  sink : List Byte
  /-- model: the last answer, not yet acted upon (R9) -/
  ans : Answer
  /-- model: `r1.v` of READ_LENGTH (R196) -/
  size1 : Byte
  /-- model: `r2.v` of READ_LENGTH (R196) -/
  size2 : Byte
  /-- model: the schedule; empty, the sequencer moves (log 2) -/
  inputs : List Turn
  /-- model: the environment's scripted answers; empty, `Config.freeAnswer` answers (log 3) -/
  answers : List Answer
  /-- model: how many values have been drawn (log 9) -/
  draws : Nat
  /-- model: what the last host read returned (log 19) -/
  hostData : Option HostValue
deriving DecidableEq, Repr

/-- Why a step stops with a fault: the spec's fault outcome `Unwritten` (I6), and two accesses no run of the block makes. -/
inductive Fault where
  /-- A TBL reads TMEM at an index nothing has written (R150, R322, I6). Raised by the table sequencer. Safe. -/
  | unwrittenTmem (index : Nat)
  /-- An NMEA command's range holds an LMEM byte nothing has written (R240, R322, I6). Raised by NMEA.LINE and
  NMEA.BUF. Safe. -/
  | unwrittenLmem (index : Nat)
  /-- CAPTURE flushes an ABUF byte nothing has written, which no run does (R322). Raised by the flushes of CAPTURE.
  Safe. -/
  | unwrittenAbuf (index : Nat)
  /-- CAPTURE stores a byte outside ABUF, which no run does (R202). Raised by `STORE`. Safe. -/
  | outsideAbuf (index : Nat)
deriving DecidableEq, Repr

/-- Why a step is refused. -/
inductive Refusal where
  /-- The instruction has no meaning in the model yet. Raised by the arms of `exec`. Safe. -/
  | notModelled (mnemonic : String)
  /-- `BUSY = 1` and `CUR_CMD` is no legal descriptor, which no run reaches since an illegal command is never taken
  (R118). Raised by the sequencer's step. Safe (log 17). -/
  | illegalDescriptor (c : Desc)
deriving DecidableEq, Repr

/-- The state after power-on and reset (R320 to R322). The values the spec does not give are those of the log:
`cfg` (7), `result` (10), `curCmd`, `ti`, `rmwV`, `ans`, `size1`, `size2` (14), `sink` (15), `hist` (16), and the model's
own fields. -/
def State.reset : State where
  cfg := Config.params
  cmdLast := 0
  busy := false
  ovr := false
  cancelPending := false
  err := .ok
  capState := .idle
  inFrame := false
  csState := .deselected
  result := 0
  resultWritten := false
  errPrim := .none
  errIdx := 0
  tblCount := 0
  capLen := 0
  capRemain := 0
  capCursor := 0
  capPrev := 0
  capCur := 0
  capOut := 0
  pollCount := 0
  nmeaOk := 0
  nmeaBad := 0
  nmeaUnk := 0
  loc := {}
  curCmd := 0
  pcSeq := .idle
  ti := 0
  rmwV := 0
  tmem := []
  lmem := []
  abuf := []
  hist := []
  sink := []
  ans := .ok 0
  size1 := 0
  size2 := 0
  inputs := []
  answers := []
  draws := 0
  hostData := none

end Sys2Proof.Machine
end

