-- ==== Sys2Proof/Machine/Flags.lean ====
section
/-! DEFINITION. The block has no arithmetic condition codes (R53). Its flags are the fields of STATUS; here are the codes of
its fields (R33, R38, R40, R42, R290) and the words STATUS, ERR_INFO and CAP_WIN as the host reads them. -/

namespace Sys2Proof.Machine

/-- The number of an outcome code (R290). -/
def ErrCode.code : ErrCode → BitVec 4
  | .ok => 0
  | .busError => 1
  | .emptyBuffer => 2
  | .bufferOverflow => 3
  | .incompleteFrame => 4
  | .captureTimeout => 5
  | .checksumDelimiterMissing => 6
  | .checksumMismatch => 7
  | .truncatedSentence => 8
  | .unknownSentence => 9
  | .sinkError => 10
  | .cancelled => 11
  | .illegalCommand => 12
  | .rangeError => 13
  | .csNotReleased => 14

/-- The number of a primitive in `ERR_INFO.PRIM` (R42). -/
def PrimCode.code : PrimCode → BitVec 4
  | .none => 0
  | .cbWrite => 1
  | .cbRead => 2
  | .tbWrite => 3
  | .tbRead => 4
  | .burstBegin => 5
  | .xfer => 6
  | .sinkWrite => 7

/-- The number of a capture state (R33). -/
def CapState.code : CapState → BitVec 2
  | .idle => 0
  | .armed => 1
  | .streaming => 2
  | .done => 3

/-- The number of a chip-select state (R33). -/
def CsState.code : CsState → BitVec 2
  | .deselected => 0
  | .asserted => 1
  | .unknown => 2

/-- STATUS as the host reads it (R33): reserved bits 3 and 31:13 read 0. -/
def statusWord (s : State) : Word32 :=
  0#19 ++ s.csState.code ++ BitVec.ofBool s.inFrame ++ s.capState.code ++ s.err.code ++ 0#1 ++
    BitVec.ofBool s.cancelPending ++ BitVec.ofBool s.ovr ++ BitVec.ofBool s.busy

/-- ERR_INFO as the host reads it (R42): reserved bits 15:4 read 0. -/
def errInfoWord (s : State) : Word32 := s.errIdx ++ 0#12 ++ s.errPrim.code

/-- CAP_WIN as the host reads it (R45). -/
def capWinWord (s : State) : Half := s.capPrev ++ s.capCur

end Sys2Proof.Machine
end

