-- ==== Sys2Proof/Machine/Operands.lean ====
section
/-! DEFINITION. The ports of R112 with their widths and masks (R141), and the fields of a table entry (R82). -/

namespace Sys2Proof.Machine

/-- The five register targets of R112. -/
inductive Port where
  | a8d8
  | a16d8
  | a8d16
  | a16d16
  | tb
deriving DecidableEq, Repr, Inhabited

/-- `aw(p)` (R112). -/
def addrWidth : Port → Width
  | .a8d8 | .a8d16 | .tb => .w8
  | .a16d8 | .a16d16 => .w16

/-- `dw(p)` (R112). -/
def dataWidth : Port → Width
  | .a8d8 | .a16d8 | .tb => .w8
  | .a8d16 | .a16d16 => .w16

/-- `2^w - 1`, the all-ones pattern of a width (R112, R141). -/
def widthMask : Width → Half
  | .w8 => 0x00FF
  | .w16 => 0xFFFF

/-- `amask(p)` (R112, R141). -/
def addrMask (p : Port) : Half := widthMask (addrWidth p)

/-- `dmask(p)` (R112, R141). -/
def dataMask (p : Port) : Half := widthMask (dataWidth p)

/-- The inert ports: "defined but inert (no-op)" (R112). -/
def isInert : Port → Bool
  | .a8d16 | .a16d16 => true
  | .a8d8 | .a16d8 | .tb => false

/-- The port whose writes are followed by the mandatory delay (R142). -/
def hasDelay : Port → Bool
  | .a16d8 => true
  | .a8d8 | .a8d16 | .a16d16 | .tb => false

/-- The ports on the transfer bus, whose commands need chip-select released (R294). -/
def onTransferBus : Port → Bool
  | .tb => true
  | .a8d8 | .a16d8 | .a8d16 | .a16d16 => false

/-- The address field of a TMEM entry, `e[15:0]` (R82). -/
def entryAddr (e : Word32) : Half := e.extractLsb' 0 16

/-- The value field of a TMEM entry, `e[31:16]` (R82). -/
def entryVal (e : Word32) : Half := e.extractLsb' 16 16

/-- The sentinel of a port's tables: masked address and value are all ones (R150). -/
def isSentinel (p : Port) (e : Word32) : Bool :=
  (entryAddr e &&& addrMask p == addrMask p) && (entryVal e &&& dataMask p == dataMask p)

/-- `1 << b`, a single bit (R160). -/
def oneBit (b : BitVec 4) : Half := 1#16 <<< b.toNat

/-- What SETB writes back (R160). -/
def withBitSet (v : Half) (b : BitVec 4) : Half := v ||| oneBit b

/-- What CLRB writes back (R160). -/
def withBitClear (p : Port) (v : Half) (b : BitVec 4) : Half := v &&& ~~~(oneBit b) &&& dataMask p

/-- What GETB returns, 0 or 1 (R160). -/
def bitOf (v : Half) (b : BitVec 4) : Half := (v >>> b.toNat) &&& 1

/-- `ERR_INFO.PRIM` of a failed write through a port (R142). -/
def writePrim : Port → PrimCode
  | .a8d8 | .a16d8 | .a8d16 | .a16d16 => .cbWrite
  | .tb => .tbWrite

/-- `ERR_INFO.PRIM` of a failed read through a port (R143). -/
def readPrim : Port → PrimCode
  | .a8d8 | .a16d8 | .a8d16 | .a16d16 => .cbRead
  | .tb => .tbRead

end Sys2Proof.Machine
end

