-- ==== Sys2Proof/Machine/Ops.lean ====
section
/-! DEFINITION. The shared operations: the memories (R12, R81 to R84), the external primitives (R9, R14), ending a command
by an error or normally (R15, R296), taking a command (R118), and the port accesses (R142, R143). -/

namespace Sys2Proof.Machine

/-- What one step of a command answers. -/
abbrev StepResult := Host.Outcome State Fault Refusal

/-! ### Memories -/

/-- The value at an address, if it has been written (R322). -/
def Memory.read {α : Type} : Memory α → Nat → Option α
  | [], _ => none
  | (k, v) :: rest, a => if k = a then some v else Memory.read rest a

/-- Write one unit, keeping the addresses strictly rising. -/
def Memory.write {α : Type} : Memory α → Nat → α → Memory α
  | [], a, v => [(a, v)]
  | (k, w) :: rest, a, v =>
    if a < k then (a, v) :: (k, w) :: rest
    else if a = k then (a, v) :: rest
    else (k, w) :: Memory.write rest a v

/-- The canonical form: addresses strictly rising. No address reads as a value unless it is listed. -/
abbrev Memory.wf {α : Type} (m : Memory α) : Prop := (m.map Prod.fst).Pairwise (· < ·)

/-- `n` units from `base` on (R12), or the first of those indices that is unwritten. -/
def Memory.readRange {α : Type} (m : Memory α) (base : Nat) : Nat → Except Nat (List α)
  | 0 => .ok []
  | n + 1 =>
    match Memory.read m base with
    | none => .error base
    | some v =>
      match Memory.readRange m (base + 1) n with
      | .ok vs => .ok (v :: vs)
      | .error i => .error i

/-! ### External primitives -/

/-- An answer with the form R14 gives the primitive: reads return a value below `2^dw`, the others none, and chip-select
and delay cannot fail (log 4). -/
def fitAnswer : Prim → Answer → Answer
  | .csAssert, _ | .csDeassert, _ | .delayMs _, _ => .ok 0
  | _, .err => .err
  | .cbRead _ dw _, .ok v => .ok (v &&& widthMask dw)
  | .tbRead _, .ok v | .xfer _, .ok v => .ok (v &&& 0x00FF)
  | .cbWrite _ _ _ _, .ok _ | .tbWrite _ _, .ok _ | .burstBegin, .ok _ | .sinkWrite _, .ok _ => .ok 0

/-- What the environment answers to a primitive now (R8): the script's next answer, or the free one (log 3). -/
def answerTo (p : Prim) (s : State) : Answer :=
  fitAnswer p (match s.answers with
    | a :: _ => a
    | [] => Config.freeAnswer s.hist p)

/-- Issue a primitive that may fail and stop at program point `k`, where the next step acts upon the answer (R9, R14). -/
def ask (p : Prim) (k : Point) (s : State) : State :=
  { s with
    hist := s.hist ++ [⟨p, answerTo p s⟩]
    ans := answerTo p s
    answers := s.answers.tail
    pcSeq := k }

/-- Issue a primitive that is always answered `Ok` and stop at program point `k` (R14). -/
def signal (p : Prim) (k : Point) (s : State) : State :=
  { s with hist := s.hist ++ [⟨p, .ok 0⟩], pcSeq := k }

/-- What the sink takes of `bytes` under an answer (R85): all of them, or after `Err` any prefix (I4). -/
def sinkTakes (bytes : List Byte) (a : Answer) (s : State) : List Byte :=
  match a with
  | .ok _ => bytes
  | .err => bytes.take (Config.freeTaken s.hist)

/-- `SINK_WRITE(bytes)`: the primitive, and its effect on the sink (R14, R85). -/
def askSink (bytes : List Byte) (k : Point) (s : State) : State :=
  { ask (.sinkWrite bytes) k s with
    sink := s.sink ++ sinkTakes bytes (answerTo (.sinkWrite bytes) s) s }

/-- `draw()`: the next free 16-bit value (R15). -/
def draw (s : State) : Half := Config.freeDraw s.draws

/-! ### Ending a command -/

/-- `raise E(info)` (R15, R296): the one way an error is taken. `idx` is `ERR_INFO.IDX` as the command set it, else 0. -/
def raise (e : ErrCode) (prim : PrimCode) (idx : Half) (s : State) : State :=
  { s with
    err := e
    errPrim := prim
    errIdx := idx
    cancelPending := false
    busy := false
    pcSeq := .idle }

/-- `raise BusError(prim)` of a command other than TBL (R15, R296). -/
def raiseBus (prim : PrimCode) (s : State) : State := raise .busError prim 0 s

/-- `raise CsNotReleased` (R294): `ERR_INFO = 0`. -/
def raiseCs (s : State) : State := raise .csNotReleased .none 0 s

/-- `finish(code)` (R15, R36). -/
def finish (e : ErrCode) (s : State) : State :=
  { s with err := e, cancelPending := false, busy := false, pcSeq := .idle }

/-! ### Taking a command -/

/-- Taking a command the host wrote to CMD while `BUSY = 0` (R118, R293). -/
def takeCommand (c : Desc) (s : State) : State :=
  if legal c then
    { s with
      cmdLast := c
      curCmd := c
      busy := true
      err := .ok
      errPrim := .none
      errIdx := 0
      pcSeq := .start }
  else
    { s with cmdLast := c, err := .illegalCommand, errPrim := .none, errIdx := 0 }

/-! ### Port accesses -/

/-- The write primitive of an active port, masked to its widths (R141, R142). -/
def writeCall (p : Port) (a v : Half) : Prim :=
  match p with
  | .tb => .tbWrite (a.setWidth 8) (v.setWidth 8)
  | .a8d8 | .a16d8 | .a8d16 | .a16d16 =>
    .cbWrite (addrWidth p) (dataWidth p) (a &&& addrMask p) (v &&& dataMask p)

/-- The read primitive of an active port (R141, R143). -/
def readCall (p : Port) (a : Half) : Prim :=
  match p with
  | .tb => .tbRead (a.setWidth 8)
  | .a8d8 | .a16d8 | .a8d16 | .a16d16 => .cbRead (addrWidth p) (dataWidth p) (a &&& addrMask p)

/-- `PORT_WRITE` on an active port: its write primitive; on A16D8 the delay is next (R142). -/
def portWrite (p : Port) (a v : Half) (s : State) : State :=
  ask (writeCall p a v) (if hasDelay p then .delay else .written) s

/-- The mandatory `DELAY_MS(DELAY_16_MS)` after a 16-bit-address write, whatever its answer (R142). The write's answer
stays pending. -/
def portDelay (s : State) : State := signal (.delayMs Config.delay16Ms) .written s

/-- `PORT_READ` on an active port (R143). -/
def portRead (p : Port) (a : Half) (s : State) : State := ask (readCall p a) .read s

/-- Whether a command on this port must refuse because chip-select is not known to be released (R294). -/
def csBlocked (p : Port) (s : State) : Bool := onTransferBus p && s.csState != .deselected

end Sys2Proof.Machine
end

