-- ==== Sys2Proof/Machine/HostInterface.lean ====
section
/-! DEFINITION. The host interface (10_state.md R31 to R49, 60_exceptions.md R306): register writes and reads, memory writes,
and reset (70_reset_and_hazards.md). Each host action is one atomic step. -/

namespace Sys2Proof.Machine

/-- A host write to CMD (R31, R35, R118). -/
def hostWriteCmd (c : Desc) (s : State) : State :=
  if s.busy then { s with ovr := true } else takeCommand c s

/-- A host write to CTRL (R32): bit 0 is CANCEL, which acts only while busy; bit 1 is CLR_OVR; bits 7:2 are ignored. -/
def hostWriteCtrl (v : Byte) (s : State) : State :=
  { s with
    cancelPending := s.cancelPending || (s.busy && v.getLsbD 0)
    ovr := s.ovr && !v.getLsbD 1 }

/-- A host write to the register of an index (R49, R306): CMD, CTRL, or ignored. -/
def hostWriteReg (index : Nat) (v : BitVec 64) (s : State) : State :=
  match index with
  | 0 => hostWriteCmd v s
  | 1 => hostWriteCtrl (v.setWidth 8) s
  | _ => s

/-- A host write to TMEM (R35, R306). -/
def hostWriteTmem (i : Nat) (e : Word32) (s : State) : State :=
  if s.busy then { s with ovr := true }
  else if i < s.cfg.tmemEntries then { s with tmem := Memory.write s.tmem i e }
  else s

/-- A host write to LMEM (R35, R306). -/
def hostWriteLmem (i : Nat) (b : Byte) (s : State) : State :=
  if s.busy then { s with ovr := true }
  else if i < s.cfg.lmemBytes then { s with lmem := Memory.write (α := Byte) s.lmem i b }
  else s

/-- The register file as the host reads it (R31, R32, R49): CTRL and the reserved indices read 0 (I13). An unwritten
RESULT reads as a drawn value (I6; log 10). -/
def hostValue (index : Nat) (s : State) : HostValue :=
  match index with
  | 0 => .word s.cmdLast
  | 2 => .word ((statusWord s).setWidth 64)
  | 3 => .word ((if s.resultWritten then s.result else draw s).setWidth 64)
  | 4 => .word ((errInfoWord s).setWidth 64)
  | 5 => .word (s.tblCount.setWidth 64)
  | 6 => .word (s.capLen.setWidth 64)
  | 7 => .word (s.capRemain.setWidth 64)
  | 8 => .word (s.capCursor.setWidth 64)
  | 9 => .word ((capWinWord s).setWidth 64)
  | 10 => .word (s.capOut.setWidth 64)
  | 11 => .word (s.pollCount.setWidth 64)
  | 12 => .word (s.nmeaOk.setWidth 64)
  | 13 => .word (s.nmeaBad.setWidth 64)
  | 14 => .word (s.nmeaUnk.setWidth 64)
  | 15 => .coord s.loc.lat
  | 16 => .coord s.loc.lon
  | 17 => .number s.loc.alt
  | 18 => .number s.loc.spd
  | 19 => .number s.loc.crs
  | 20 => .count s.loc.fixq
  | 21 => .count s.loc.nsat
  | _ => .word 0

/-- A host read (R96, R306): the value the last step left. Reading an unwritten RESULT uses up one drawn value. -/
def hostReadReg (index : Nat) (s : State) : State :=
  { s with
    hostData := some (hostValue index s)
    draws := if index = 3 ∧ !s.resultWritten then s.draws + 1 else s.draws }

/-- Reset (R320 to R322): every register and memory takes its reset value; the history, the sink, the environment's
answers and the schedule are outside the block and stay (log 27). -/
def hostReset (s : State) : State :=
  { State.reset with
    cfg := s.cfg
    hist := s.hist
    sink := s.sink
    inputs := s.inputs
    answers := s.answers
    draws := s.draws
    hostData := s.hostData }

/-- One host action (R306). -/
def hostAct (a : HostAction) (s : State) : State :=
  match a with
  | .writeReg index v => hostWriteReg index v s
  | .writeTmem i e => hostWriteTmem i e s
  | .writeLmem i b => hostWriteLmem i b s
  | .readReg index => hostReadReg index s
  | .reset => hostReset s

end Sys2Proof.Machine
end

