-- ==== Sys2Proof/Machine/Capture.lean ====
section
/-! DEFINITION. The Streaming Capture Engine (41_capture_engine.md): CAPTURE and DESELECT, each as one step of the sequencer
from its program point `pcSeq`. A program point that is not one of the command's own later points counts as its first
(log 6). -/

namespace Sys2Proof.Machine

/-! ### Errors -/

/-- `fail E`: CAP_STATE becomes IDLE, then the error is raised (R191, R205). -/
def captureFail (e : ErrCode) (prim : PrimCode) (s : State) : State :=
  raise e prim 0 { s with capState := .idle }

/-- `fail SinkError` with chip-select left unknown (R201, R203, R205). -/
def captureSinkFail (s : State) : State := captureFail .sinkError .sinkWrite { s with csState := .unknown }

/-! ### Arming and polling -/

/-- `SESSION_INIT()` (R193). -/
def sessionInit (s : State) : State :=
  { s with
    capLen := 0
    capRemain := 0
    capCursor := 0
    capPrev := 0
    capCur := 0
    capOut := 0
    pollCount := 0
    inFrame := false
    capState := .idle }

/-- The first step of CAPTURE (R192 to R194): the chip-select check, SESSION_INIT and the first arming write. -/
def captureFirst (s : State) : State :=
  if s.csState ≠ .deselected then raiseCs s
  else ask (.tbWrite s.cfg.regFifoCtrl s.cfg.maskFifoClear) .armClear (sessionInit s)

/-- One iteration of `POLL()` (R195): the cancel check, then the bound, then the read. -/
def pollAgain (s : State) : State :=
  if s.cancelPending then captureFail .cancelled .none s
  else if s.pollCount.toNat = s.cfg.pollLimit then captureFail .captureTimeout .none s
  else ask (.tbRead s.cfg.regTrig) .polled { s with pollCount := s.pollCount + 1 }

/-- The first arming write has been answered (R194). -/
def afterArmClear (s : State) : State :=
  match s.ans with
  | .err => captureFail .busError .tbWrite s
  | .ok _ => ask (.tbWrite s.cfg.regFifoCtrl s.cfg.maskFifoStart) .armStart s

/-- The second arming write has been answered (R194): ARMED, then the first poll. -/
def afterArmStart (s : State) : State :=
  match s.ans with
  | .err => captureFail .busError .tbWrite s
  | .ok _ => pollAgain { s with capState := .armed }

/-- A poll has been answered (R195, R196): poll again, or enter STREAMING and read the first size register. -/
def afterPoll (s : State) : State :=
  match s.ans with
  | .err => captureFail .busError .tbRead s
  | .ok v =>
    if v.setWidth 8 &&& s.cfg.maskCapDone ≠ 0 then ask (.tbRead s.cfg.regSize1) .size1 { s with capState := .streaming }
    else pollAgain s

/-! ### The length -/

/-- The first size register has been read (R196). -/
def afterSize1 (s : State) : State :=
  match s.ans with
  | .err => captureFail .busError .tbRead s
  | .ok v => ask (.tbRead s.cfg.regSize2) .size2 { s with size1 := v.setWidth 8 }

/-- The second size register has been read (R196). -/
def afterSize2 (s : State) : State :=
  match s.ans with
  | .err => captureFail .busError .tbRead s
  | .ok v => ask (.tbRead s.cfg.regSize3) .size3 { s with size2 := v.setWidth 8 }

/-- `(((size3 & 0x7F) << 16) | (size2 << 8) | size1) & 0x7FFFFF` (R196). -/
def fifoLength (size1 size2 size3 : Byte) : FifoLen :=
  ((((size3 &&& 0x7F).setWidth 32) <<< 16 ||| size2.setWidth 32 <<< 8 ||| size1.setWidth 32) &&&
    (0x7FFFFF : Word32)).setWidth 23

/-- `CHECK_LENGTH(L)` and the start of `OPEN_BURST()` (R197, R198), with `CAP_LEN = L`. -/
def openBurst (s : State) : State :=
  if s.capLen = 0 then captureFail .emptyBuffer .none s
  else if s.cfg.maxFifoSize ≤ s.capLen.toNat then captureFail .bufferOverflow .none s
  else signal .csAssert .csAsserted { s with capRemain := s.capLen }

/-- The third size register has been read (R196): `CAP_LEN <- L`, then the length checks. -/
def afterSize3 (s : State) : State :=
  match s.ans with
  | .err => captureFail .busError .tbRead s
  | .ok v => openBurst { s with capLen := fifoLength s.size1 s.size2 (v.setWidth 8) }

/-! ### The stream -/

/-- Chip-select has been asserted (R198). -/
def afterCsAssert (s : State) : State := ask .burstBegin .burstOpen { s with csState := .asserted }

/-- The head of the streaming loop (R191, R199, R204): pull a byte while any remain, else the length is exhausted. -/
def streamNext (s : State) : State :=
  if s.capRemain = 0 then signal .csDeassert .exhausted s
  else ask (.xfer Config.xferDummy) .pulled s

/-- The burst has been opened (R198). -/
def afterBurstOpen (s : State) : State :=
  match s.ans with
  | .err => captureFail .busError .burstBegin s
  | .ok _ => streamNext s

/-- `SINK_WRITE(MemRead(ABUF, 0, n))` (R201, R203). -/
def flush (n : Nat) (k : Point) (s : State) : StepResult :=
  match Memory.readRange (α := Byte) s.abuf 0 n with
  | .error i => .fault (.unwrittenAbuf i)
  | .ok bytes => .next (askSink bytes k s)

/-- The byte that a `STORE` writes (R199, R200). -/
def storeByte : StoreSite → State → Byte
  | .startFF, _ => 0xFF
  | .startD8, _ => 0xD8
  | .data, s => s.capCur

/-- `MemWrite(ABUF, CAP_CURSOR, 1, b)` and the cursor's advance (R202). -/
def putByte (b : Byte) (s : State) : Except Fault State :=
  if s.cfg.bufCap ≤ s.capCursor.toNat then .error (.outsideAbuf s.capCursor.toNat)
  else .ok { s with
    abuf := Memory.write (α := Byte) s.abuf s.capCursor.toNat b
    capCursor := s.capCursor + 1 }

/-- `STORE(b)` (R202): into a full buffer it begins with `ROTATE()` (R203), whose end stores the byte; else `next` goes on
after the store. -/
def store (site : StoreSite) (next : State → StepResult) (s : State) : StepResult :=
  if s.capCursor.toNat = s.cfg.bufCap then .next (signal .csDeassert (.rotDeasserted site) s)
  else
    match putByte (storeByte site s) s with
    | .error f => .fault f
    | .ok s' => next s'

/-- After a byte of the frame was stored (R191, R201): the end-of-image marker flushes the buffer, else the stream goes
on. -/
def afterData (s : State) : StepResult :=
  if s.capPrev = 0xFF ∧ s.capCur = 0xD9 then flush s.capCursor.toNat .eofFlushed s
  else .next (streamNext s)

/-- What follows a store (R200, R201). -/
def afterStore : StoreSite → State → StepResult
  | .startFF, s => store .startD8 (fun s' => .next (streamNext s')) s
  | .startD8, s => .next (streamNext s)
  | .data, s => afterData s

/-- `PREV <- CUR; CUR <- x` and `CAP_REMAIN <- CAP_REMAIN - 1` (R199). -/
def slideWindow (x : Byte) (s : State) : State :=
  { s with capRemain := s.capRemain - 1, capPrev := s.capCur, capCur := x }

/-- The body of the streaming loop once the window holds the byte pulled (R191, R200). -/
def examineWindow (s : State) : StepResult :=
  if s.inFrame then store .data (afterStore .data) s
  else if s.capPrev = 0xFF ∧ s.capCur = 0xD8 then store .startFF (afterStore .startFF) { s with inFrame := true }
  else .next (streamNext s)

/-- An `XFER` has been answered (R199). -/
def afterPull (s : State) : StepResult :=
  match s.ans with
  | .err => .next (captureFail .busError .xfer s)
  | .ok v => examineWindow (slideWindow (v.setWidth 8) s)

/-! ### Rotation -/

/-- Chip-select has been deasserted for a rotation (R203): flush the full buffer. -/
def afterRotDeassert (site : StoreSite) (s : State) : StepResult :=
  flush s.cfg.bufCap (.rotFlushed site) { s with csState := .deselected }

/-- The rotation's flush has been answered (R203). -/
def afterRotFlush (site : StoreSite) (s : State) : State :=
  match s.ans with
  | .err => captureSinkFail s
  | .ok _ => signal .csAssert (.rotAsserted site)
      { s with capOut := s.capOut + BitVec.ofNat 32 s.cfg.bufCap, capCursor := 0 }

/-- Chip-select has been asserted again (R203). -/
def afterRotAssert (site : StoreSite) (s : State) : State :=
  ask .burstBegin (.rotBurst site) { s with csState := .asserted }

/-- The burst has been re-issued (R202, R203): the interrupted store is completed. -/
def afterRotBurst (site : StoreSite) (s : State) : StepResult :=
  match s.ans with
  | .err => .next (captureFail .busError .burstBegin s)
  | .ok _ =>
    match putByte (storeByte site s) s with
    | .error f => .fault f
    | .ok s' => afterStore site s'

/-! ### The ends -/

/-- The end-of-frame flush has been answered (R201): count it, reset the accumulation state, deassert chip-select. -/
def afterEofFlush (s : State) : State :=
  match s.ans with
  | .err => captureSinkFail s
  | .ok _ => signal .csDeassert .eofDeasserted
      { s with capOut := s.capOut + s.capCursor, inFrame := false, capCursor := 0 }

/-- The frame is complete (R201). -/
def captureDone (s : State) : State := finish .ok { s with csState := .deselected, capState := .done }

/-- The length is exhausted without a complete frame (R204). -/
def captureIncomplete (s : State) : State := captureFail .incompleteFrame .none { s with csState := .deselected }

/-- CAPTURE (R191). -/
def execCapture (s : State) : StepResult :=
  match s.pcSeq with
  | .armClear => .next (afterArmClear s)
  | .armStart => .next (afterArmStart s)
  | .polled => .next (afterPoll s)
  | .size1 => .next (afterSize1 s)
  | .size2 => .next (afterSize2 s)
  | .size3 => .next (afterSize3 s)
  | .csAsserted => .next (afterCsAssert s)
  | .burstOpen => .next (afterBurstOpen s)
  | .pulled => afterPull s
  | .rotDeasserted site => afterRotDeassert site s
  | .rotFlushed site => .next (afterRotFlush site s)
  | .rotAsserted site => .next (afterRotAssert site s)
  | .rotBurst site => afterRotBurst site s
  | .eofFlushed => .next (afterEofFlush s)
  | .eofDeasserted => .next (captureDone s)
  | .exhausted => .next (captureIncomplete s)
  | _ => .next (captureFirst s)

/-! ### DESELECT -/

/-- DESELECT (R207): it deasserts chip-select in every CS_STATE, then records it. -/
def execDeselect (s : State) : StepResult :=
  match s.pcSeq with
  | .deselected => .next (finish .ok { s with csState := .deselected })
  | _ => .next (signal .csDeassert .deselected s)

end Sys2Proof.Machine
end

