-- ==== Sys2Proof/Machine/Nmea.lean ====
section
/-! DEFINITION. The NMEA decoder (42_nmea_decoder.md): the pure function decodeLine (R241 to R254), the fold (R255, R256), and
the commands NMEA.BUF and NMEA.LINE (R257, R258). -/

namespace Sys2Proof.Machine

/-! ### Bytes and segments -/

/-- The pieces of a byte sequence cut at every byte for which `cut` holds; one piece more than there are cuts (R241,
R246). -/
def splitAtBytes (cut : Byte → Bool) : List Byte → List (List Byte)
  | [] => [[]]
  | b :: bs =>
    if cut b then [] :: splitAtBytes cut bs
    else
      match splitAtBytes cut bs with
      | [] => [[b]]
      | piece :: pieces => (b :: piece) :: pieces

/-- LF or CR (R241). -/
def isTerminator (b : Byte) : Bool := b == 0x0A || b == 0x0D

/-- The segments of a buffer (R241). -/
def segments (buffer : List Byte) : List (List Byte) := splitAtBytes isTerminator buffer

/-- The first segment of a buffer (R258). -/
def firstSegment (buffer : List Byte) : List Byte := buffer.takeWhile (fun b => !isTerminator b)

/-- `'*'` (R13). -/
def starByte : Byte := 0x2A

/-- Whether a line holds `'*'` (R242). -/
def hasStar (line : List Byte) : Bool := line.any (· == starByte)

/-- The body `s[0..star)` (R242, R246). -/
def lineBody (line : List Byte) : List Byte := line.takeWhile (· != starByte)

/-- The bytes after the first `'*'` (R244). -/
def afterStar (line : List Byte) : List Byte := (line.dropWhile (· != starByte)).tail

/-! ### The checksum -/

/-- The XOR of the body's bytes from index 1 on, 0 if there are none (R243). -/
def checksum (line : List Byte) : Byte := (lineBody line).tail.foldl (· ^^^ ·) 0

/-- `HV`: the value of a hex digit, upper or lower case (R244). -/
def hexValue (b : Byte) : Option Nat :=
  if 0x30 ≤ b.toNat ∧ b.toNat ≤ 0x39 then some (b.toNat - 0x30)
  else if 0x41 ≤ b.toNat ∧ b.toNat ≤ 0x46 then some (b.toNat - 0x41 + 10)
  else if 0x61 ≤ b.toNat ∧ b.toNat ≤ 0x66 then some (b.toNat - 0x61 + 10)
  else none

/-- The value of the two hex digits after `'*'`; none if they are missing or malformed (R244). Bytes after them are
ignored. -/
def sentChecksum (line : List Byte) : Option Nat :=
  match afterStar line with
  | h1 :: h2 :: _ =>
    match hexValue h1, hexValue h2 with
    | some v1, some v2 => some (16 * v1 + v2)
    | _, _ => none
  | _ => none

/-- R244: the sent checksum is present and equals the computed one. -/
def checksumMatches (line : List Byte) : Bool := sentChecksum line == some (checksum line).toNat

/-! ### Classification and fields -/

/-- The two recognised sentence kinds (R245). -/
inductive Kind where
  | gga
  | rmc
deriving DecidableEq, Repr, Inhabited

/-- `"$GPGGA"` (R245). -/
def ggaTag : List Byte := [0x24, 0x47, 0x50, 0x47, 0x47, 0x41]

/-- `"$GPRMC"` (R245). -/
def rmcTag : List Byte := [0x24, 0x47, 0x50, 0x52, 0x4D, 0x43]

/-- The kind of a line by its first six bytes; none is `Unknown` (R245). -/
def classify (line : List Byte) : Option Kind :=
  if line.take 6 = ggaTag then some .gga
  else if line.take 6 = rmcTag then some .rmc
  else none

/-- The fields of a line, the body cut at every `','` (R246). -/
def fields (line : List Byte) : List (List Byte) := splitAtBytes (· == 0x2C) (lineBody line)

/-- `NEED`: how many fields a kind uses (R247). -/
def fieldsNeeded : Kind → Nat
  | .gga => 10
  | .rmc => 9

/-- Field `i`; the decoder asks only for fields that exist (R247). -/
def fieldAt (fs : List (List Byte)) (i : Nat) : List Byte := fs.getD i []

/-! ### Grammars -/

/-- `'0'` to `'9'` (R248). -/
def isDigit (b : Byte) : Bool := 0x30 ≤ b.toNat && b.toNat ≤ 0x39

/-- The natural number of a digit sequence in decimal; 0 for the empty one (R16, R248). -/
def digitsValue (ds : List Byte) : Nat := ds.foldl (fun n b => 10 * n + (b.toNat - 0x30)) 0

/-- UDEC: digits with at most one `'.'` and at least one digit, as an exact rational (R16, R248). -/
def parseUdec (f : List Byte) : Option Rat :=
  match splitAtBytes (· == 0x2E) f with
  | [whole] => if whole ≠ [] ∧ whole.all isDigit then some (digitsValue whole : Rat) else none
  | [whole, part] =>
    if whole ++ part ≠ [] ∧ (whole ++ part).all isDigit then
      some (mkRat (digitsValue (whole ++ part)) (10 ^ part.length))
    else none
  | _ => none

/-- SDEC: UDEC, or `'-'` and UDEC, negated (R248). -/
def parseSdec : List Byte → Option Rat
  | 0x2D :: rest => (parseUdec rest).map (fun v => -v)
  | f => parseUdec f

/-- UINT: one or more digits (R248). -/
def parseUint (f : List Byte) : Option Nat :=
  if f ≠ [] ∧ f.all isDigit then some (digitsValue f) else none

/-- A field is empty, meaning no value, or matches its grammar; none is malformed (R248). -/
def optionalField {α : Type} (parse : List Byte → Option α) (f : List Byte) : Option (Option α) :=
  if f = [] then some none else (parse f).map some

/-- `SIGN(f, p, n)`: a hemisphere field (R249); none is malformed. -/
def parseSign (f : List Byte) (plus minus : Byte) : Option Sign :=
  match f with
  | [] => some .unknown
  | [b] => if b = plus then some .pos else if b = minus then some .neg else none
  | _ => none

/-- The magnitude of a coordinate field's value `DDMM.MMMM` (R250). -/
def magnitude (v : Rat) : Rat :=
  let deg : Rat := ((v / 100).floor : Rat)
  deg + (v - 100 * deg) / 60

/-! ### Updates -/

/-- The update of a GGA sentence (R251); none if a used field is malformed. Registers the update leaves out are none in
it. -/
def ggaUpdate (fs : List (List Byte)) : Option Loc := do
  let signLat ← parseSign (fieldAt fs 3) 0x4E 0x53
  let signLon ← parseSign (fieldAt fs 5) 0x45 0x57
  let lat ← optionalField parseUdec (fieldAt fs 2)
  let lon ← optionalField parseUdec (fieldAt fs 4)
  let fixq ← optionalField parseUint (fieldAt fs 6)
  let nsat ← optionalField parseUint (fieldAt fs 7)
  let alt ← optionalField parseSdec (fieldAt fs 9)
  pure {
    lat := lat.map (fun v => ⟨magnitude v, signLat⟩)
    lon := lon.map (fun v => ⟨magnitude v, signLon⟩)
    fixq := fixq
    nsat := nsat
    alt := alt }

/-- The update of an RMC sentence: speed and course only (R252). -/
def rmcUpdate (fs : List (List Byte)) : Option Loc := do
  let spd ← optionalField parseUdec (fieldAt fs 7)
  let crs ← optionalField parseUdec (fieldAt fs 8)
  pure { spd := spd, crs := crs }

/-- The update of a sentence of a kind (R251, R252). -/
def updateOf : Kind → List (List Byte) → Option Loc
  | .gga, fs => ggaUpdate fs
  | .rmc, fs => rmcUpdate fs

/-! ### decodeLine -/

/-- The outcomes of decodeLine (R254). -/
inductive LineOutcome where
  | delimiterMissing
  | mismatch
  | unknown
  | truncated
  | accepted (kind : Kind) (update : Loc)
deriving DecidableEq, Repr, Inhabited

/-- `decodeLine(s)`: the outcomes of R254, tried in its order. -/
def decodeLine (line : List Byte) : LineOutcome :=
  if !hasStar line then .delimiterMissing
  else if !checksumMatches line then .mismatch
  else
    match classify line with
    | none => .unknown
    | some kind =>
      if (fields line).length < fieldsNeeded kind then .truncated
      else
        match updateOf kind (fields line) with
        | none => .truncated
        | some update => .accepted kind update

/-! ### The fold -/

/-- `APPLY(u)` (R256): a register that the update holds takes its value, every other keeps its own. -/
def Loc.apply (update loc : Loc) : Loc where
  lat := update.lat.or loc.lat
  lon := update.lon.or loc.lon
  alt := update.alt.or loc.alt
  spd := update.spd.or loc.spd
  crs := update.crs.or loc.crs
  fixq := update.fixq.or loc.fixq
  nsat := update.nsat.or loc.nsat

/-- Starting the fold (R255). -/
def startFold (s : State) : State :=
  { s with loc := {}, nmeaOk := 0, nmeaBad := 0, nmeaUnk := 0 }

/-- What a line's outcome does to the location registers and the counters (R257, R258). -/
def countLine (s : State) : LineOutcome → State
  | .accepted _ update => { s with loc := update.apply s.loc, nmeaOk := s.nmeaOk + 1 }
  | .unknown => { s with nmeaUnk := s.nmeaUnk + 1 }
  | .delimiterMissing | .mismatch | .truncated => { s with nmeaBad := s.nmeaBad + 1 }

/-- `RESULT` of NMEA.LINE (R258). -/
def lineResult : LineOutcome → Half
  | .accepted .gga _ => 1
  | .accepted .rmc _ => 2
  | .unknown | .delimiterMissing | .mismatch | .truncated => 0

/-- The code NMEA.LINE finishes with (R258). -/
def lineCode : LineOutcome → ErrCode
  | .accepted _ _ => .ok
  | .unknown => .unknownSentence
  | .delimiterMissing => .checksumDelimiterMissing
  | .mismatch => .checksumMismatch
  | .truncated => .truncatedSentence

/-- `NMEA_OPERANDS()` (R240): the range check, then the buffer, given to `next`. -/
def withBuffer (lbase llen : Half) (s : State) (next : List Byte → StepResult) : StepResult :=
  if s.cfg.lmemBytes < lbase.toNat + llen.toNat then .next (raise .rangeError .none 0 s)
  else
    match Memory.readRange (α := Byte) s.lmem lbase.toNat llen.toNat with
    | .error i => .fault (.unwrittenLmem i)
    | .ok buffer => next buffer

/-- The fold of NMEA.BUF over a buffer: every non-empty segment in order (R257). -/
def foldBuffer (buffer : List Byte) (s : State) : State :=
  ((segments buffer).filter (· ≠ [])).foldl (fun s' line => countLine s' (decodeLine line)) (startFold s)

/-- NMEA.BUF (R257). -/
def execNmeaBuf (lbase llen : Half) (s : State) : StepResult :=
  withBuffer lbase llen s fun buffer => .next (finish .ok (foldBuffer buffer s))

/-- The end of NMEA.LINE with the outcome of its line (R258). -/
def endLine (outcome : LineOutcome) (s : State) : State :=
  finish (lineCode outcome)
    { countLine (startFold s) outcome with result := lineResult outcome, resultWritten := true }

/-- NMEA.LINE (R258). -/
def execNmeaLine (lbase llen : Half) (s : State) : StepResult :=
  withBuffer lbase llen s fun buffer => .next (endLine (decodeLine (firstSegment buffer)) s)

end Sys2Proof.Machine
end

