-- ==== Sys2Proof/Machine/RegisterDriver.lean ====
section
/-! DEFINITION. The Register Protocol Driver (40_register_driver.md): NOP, WR, RD, TBL, SETB, CLRB and GETB, each command as one
step of the sequencer from its program point `pcSeq`. A program point that is not one of the command's own later points
counts as its first (log 6). -/

namespace Sys2Proof.Machine

/-! ### NOP -/

/-- NOP (R144). -/
def execNop (s : State) : StepResult := .next (finish .ok s)

/-! ### Single-register write -/

/-- The end of a command whose register write has been answered: `raise BusError` or `finish(0)` (R145 to R149, R160). -/
def endWrite (p : Port) (s : State) : State :=
  match s.ans with
  | .err => raiseBus (writePrim p) s
  | .ok _ => finish .ok s

/-- The first step of WR on an active port (R145, R146, R149). -/
def wrFirst (p : Port) (addr val : Half) (s : State) : State :=
  if csBlocked p s then raiseCs s else portWrite p addr val s

/-- WR on a port (R145 to R149); on an inert port it ends at once, without an event. -/
def wrCmd (p : Port) (addr val : Half) (s : State) : StepResult :=
  if isInert p then .next (finish .ok s)
  else
    match s.pcSeq with
    | .delay => .next (if hasDelay p then portDelay s else wrFirst p addr val s)
    | .written => .next (endWrite p s)
    | _ => .next (wrFirst p addr val s)

/-- WR.A8D8 (R145). -/
def execWrA8D8 (addr val : Half) (s : State) : StepResult := wrCmd .a8d8 addr val s

/-- WR.A16D8 (R146). -/
def execWrA16D8 (addr val : Half) (s : State) : StepResult := wrCmd .a16d8 addr val s

/-- WR.A8D16 (R147). -/
def execWrA8D16 (addr val : Half) (s : State) : StepResult := wrCmd .a8d16 addr val s

/-- WR.A16D16 (R148). -/
def execWrA16D16 (addr val : Half) (s : State) : StepResult := wrCmd .a16d16 addr val s

/-- WR.TB (R149). -/
def execWrTB (addr val : Half) (s : State) : StepResult := wrCmd .tb addr val s

/-! ### Single-register read -/

/-- `RESULT <- v` and `finish(0)` (R155 to R159, R160). -/
def finishResult (v : Half) (s : State) : State := finish .ok { s with result := v, resultWritten := true }

/-- The end of RD once its read has been answered (R155, R156, R159): on `Err` RESULT keeps its value. -/
def endRead (p : Port) (s : State) : State :=
  match s.ans with
  | .err => raiseBus (readPrim p) s
  | .ok v => finishResult v s

/-- The first step of RD, and of a bit operation, on an active port (R155, R156, R159, R160). -/
def rdFirst (p : Port) (addr : Half) (s : State) : State :=
  if csBlocked p s then raiseCs s else portRead p addr s

/-- RD on a port (R155 to R159); on an inert port RESULT gets a drawn value, without an event. -/
def rdCmd (p : Port) (addr : Half) (s : State) : StepResult :=
  if isInert p then .next (finishResult (draw s) { s with draws := s.draws + 1 })
  else
    match s.pcSeq with
    | .read => .next (endRead p s)
    | _ => .next (rdFirst p addr s)

/-- RD.A8D8 (R155). -/
def execRdA8D8 (addr : Half) (s : State) : StepResult := rdCmd .a8d8 addr s

/-- RD.A16D8 (R156). -/
def execRdA16D8 (addr : Half) (s : State) : StepResult := rdCmd .a16d8 addr s

/-- RD.A8D16 (R157). -/
def execRdA8D16 (addr : Half) (s : State) : StepResult := rdCmd .a8d16 addr s

/-- RD.A16D16 (R158). -/
def execRdA16D16 (addr : Half) (s : State) : StepResult := rdCmd .a16d16 addr s

/-- RD.TB (R159). -/
def execRdTB (addr : Half) (s : State) : StepResult := rdCmd .tb addr s

/-! ### Table execution -/

/-- The loop of `TABLE(p)` at index `TI` (R150): the range check, the entry, the sentinel, and the entry's write. -/
def tableEntry (p : Port) (tbase tlen : Half) (s : State) : StepResult :=
  if tlen.toNat ≤ s.ti.toNat ∨ s.cfg.tmemEntries ≤ tbase.toNat + s.ti.toNat then
    .next (raise .rangeError .none s.ti s)
  else
    match Memory.read s.tmem (tbase.toNat + s.ti.toNat) with
    | none => .fault (.unwrittenTmem (tbase.toNat + s.ti.toNat))
    | some e =>
      if isSentinel p e then .next (finish .ok s)
      else .next (portWrite p (entryAddr e) (entryVal e) { s with tblCount := s.tblCount + 1 })

/-- The entry's write has been answered (R150): stop at the first bus error, else go on with the next entry. -/
def tableNext (p : Port) (tbase tlen : Half) (s : State) : StepResult :=
  match s.ans with
  | .err => .next (raise .busError .cbWrite s.ti s)
  | .ok _ => tableEntry p tbase tlen { s with ti := s.ti + 1 }

/-- The first step of `TABLE(p)` (R150). -/
def tableFirst (p : Port) (tbase tlen : Half) (s : State) : StepResult :=
  tableEntry p tbase tlen { s with tblCount := 0, ti := 0 }

/-- TBL on a control-bus port (R150 to R154); on an inert port it clears TBL_COUNT and reads nothing. -/
def tblCmd (p : Port) (tbase tlen : Half) (s : State) : StepResult :=
  if isInert p then .next (finish .ok { s with tblCount := 0 })
  else
    match s.pcSeq with
    | .delay => if hasDelay p then .next (portDelay s) else tableFirst p tbase tlen s
    | .written => tableNext p tbase tlen s
    | _ => tableFirst p tbase tlen s

/-- TBL.A8D8 (R151). -/
def execTblA8D8 (tbase tlen : Half) (s : State) : StepResult := tblCmd .a8d8 tbase tlen s

/-- TBL.A16D8 (R152). -/
def execTblA16D8 (tbase tlen : Half) (s : State) : StepResult := tblCmd .a16d8 tbase tlen s

/-- TBL.A8D16 (R153). -/
def execTblA8D16 (tbase tlen : Half) (s : State) : StepResult := tblCmd .a8d16 tbase tlen s

/-- TBL.A16D16 (R154). -/
def execTblA16D16 (tbase tlen : Half) (s : State) : StepResult := tblCmd .a16d16 tbase tlen s

/-! ### Single-bit operations -/

/-- SETB and CLRB once the read has been answered (R160): the modified value is always written back. -/
def endModify (p : Port) (addr : Half) (modify : Half → Half) (s : State) : State :=
  match s.ans with
  | .err => raiseBus (readPrim p) s
  | .ok v => portWrite p addr (modify v) { s with rmwV := v }

/-- SETB and CLRB on a port (R160 to R162); on an inert port the read is a draw and no event is issued. -/
def modifyCmd (p : Port) (addr : Half) (modify : Half → Half) (s : State) : StepResult :=
  if isInert p then .next (finish .ok { s with rmwV := draw s, draws := s.draws + 1 })
  else
    match s.pcSeq with
    | .read => .next (endModify p addr modify s)
    | .delay => .next (if hasDelay p then portDelay s else rdFirst p addr s)
    | .written => .next (endWrite p s)
    | _ => .next (rdFirst p addr s)

/-- GETB once the read has been answered (R160, R163). -/
def endGetBit (p : Port) (bit : BitVec 4) (s : State) : State :=
  match s.ans with
  | .err => raiseBus (readPrim p) s
  | .ok v => finishResult (bitOf v bit) { s with rmwV := v }

/-- GETB on a port (R160, R163); on an inert port RESULT is a drawn bit. -/
def getBitCmd (p : Port) (addr : Half) (bit : BitVec 4) (s : State) : StepResult :=
  if isInert p then
    .next (finishResult (bitOf (draw s) bit) { s with rmwV := draw s, draws := s.draws + 1 })
  else
    match s.pcSeq with
    | .read => .next (endGetBit p bit s)
    | _ => .next (rdFirst p addr s)

/-- SETB.A8D8 (R161). -/
def execSetbA8D8 (addr : Half) (bit : BitVec 4) (s : State) : StepResult :=
  modifyCmd .a8d8 addr (fun v => withBitSet v bit) s

/-- SETB.A16D8 (R161). -/
def execSetbA16D8 (addr : Half) (bit : BitVec 4) (s : State) : StepResult :=
  modifyCmd .a16d8 addr (fun v => withBitSet v bit) s

/-- SETB.A8D16 (R161). -/
def execSetbA8D16 (addr : Half) (bit : BitVec 4) (s : State) : StepResult :=
  modifyCmd .a8d16 addr (fun v => withBitSet v bit) s

/-- SETB.A16D16 (R161). -/
def execSetbA16D16 (addr : Half) (bit : BitVec 4) (s : State) : StepResult :=
  modifyCmd .a16d16 addr (fun v => withBitSet v bit) s

/-- SETB.TB (R161). -/
def execSetbTB (addr : Half) (bit : BitVec 4) (s : State) : StepResult :=
  modifyCmd .tb addr (fun v => withBitSet v bit) s

/-- CLRB.A8D8 (R162). -/
def execClrbA8D8 (addr : Half) (bit : BitVec 4) (s : State) : StepResult :=
  modifyCmd .a8d8 addr (fun v => withBitClear .a8d8 v bit) s

/-- CLRB.A16D8 (R162). -/
def execClrbA16D8 (addr : Half) (bit : BitVec 4) (s : State) : StepResult :=
  modifyCmd .a16d8 addr (fun v => withBitClear .a16d8 v bit) s

/-- CLRB.A8D16 (R162). -/
def execClrbA8D16 (addr : Half) (bit : BitVec 4) (s : State) : StepResult :=
  modifyCmd .a8d16 addr (fun v => withBitClear .a8d16 v bit) s

/-- CLRB.A16D16 (R162). -/
def execClrbA16D16 (addr : Half) (bit : BitVec 4) (s : State) : StepResult :=
  modifyCmd .a16d16 addr (fun v => withBitClear .a16d16 v bit) s

/-- CLRB.TB (R162). -/
def execClrbTB (addr : Half) (bit : BitVec 4) (s : State) : StepResult :=
  modifyCmd .tb addr (fun v => withBitClear .tb v bit) s

/-- GETB.A8D8 (R163). -/
def execGetbA8D8 (addr : Half) (bit : BitVec 4) (s : State) : StepResult := getBitCmd .a8d8 addr bit s

/-- GETB.A16D8 (R163). -/
def execGetbA16D8 (addr : Half) (bit : BitVec 4) (s : State) : StepResult := getBitCmd .a16d8 addr bit s

/-- GETB.A8D16 (R163). -/
def execGetbA8D16 (addr : Half) (bit : BitVec 4) (s : State) : StepResult := getBitCmd .a8d16 addr bit s

/-- GETB.A16D16 (R163). -/
def execGetbA16D16 (addr : Half) (bit : BitVec 4) (s : State) : StepResult := getBitCmd .a16d16 addr bit s

/-- GETB.TB (R163). -/
def execGetbTB (addr : Half) (bit : BitVec 4) (s : State) : StepResult := getBitCmd .tb addr bit s

end Sys2Proof.Machine
end

