-- ==== Sys2Proof/Machine/Dispatch.lean ====
section
/-! DEFINITION. The dispatch: one step of each command, by its constructor. -/

namespace Sys2Proof.Machine

def exec (i : Instr) (s : State) : Host.Outcome State Fault Refusal :=
  match i with
  | .nop => Sys2Proof.Machine.execNop s
  | .wrA8D8 addr val => Sys2Proof.Machine.execWrA8D8 addr val s
  | .wrA16D8 addr val => Sys2Proof.Machine.execWrA16D8 addr val s
  | .wrA8D16 addr val => Sys2Proof.Machine.execWrA8D16 addr val s
  | .wrA16D16 addr val => Sys2Proof.Machine.execWrA16D16 addr val s
  | .wrTB addr val => Sys2Proof.Machine.execWrTB addr val s
  | .rdA8D8 addr => Sys2Proof.Machine.execRdA8D8 addr s
  | .rdA16D8 addr => Sys2Proof.Machine.execRdA16D8 addr s
  | .rdA8D16 addr => Sys2Proof.Machine.execRdA8D16 addr s
  | .rdA16D16 addr => Sys2Proof.Machine.execRdA16D16 addr s
  | .rdTB addr => Sys2Proof.Machine.execRdTB addr s
  | .tblA8D8 tbase tlen => Sys2Proof.Machine.execTblA8D8 tbase tlen s
  | .tblA16D8 tbase tlen => Sys2Proof.Machine.execTblA16D8 tbase tlen s
  | .tblA8D16 tbase tlen => Sys2Proof.Machine.execTblA8D16 tbase tlen s
  | .tblA16D16 tbase tlen => Sys2Proof.Machine.execTblA16D16 tbase tlen s
  | .setbA8D8 addr bit => Sys2Proof.Machine.execSetbA8D8 addr bit s
  | .setbA16D8 addr bit => Sys2Proof.Machine.execSetbA16D8 addr bit s
  | .setbA8D16 addr bit => Sys2Proof.Machine.execSetbA8D16 addr bit s
  | .setbA16D16 addr bit => Sys2Proof.Machine.execSetbA16D16 addr bit s
  | .setbTB addr bit => Sys2Proof.Machine.execSetbTB addr bit s
  | .clrbA8D8 addr bit => Sys2Proof.Machine.execClrbA8D8 addr bit s
  | .clrbA16D8 addr bit => Sys2Proof.Machine.execClrbA16D8 addr bit s
  | .clrbA8D16 addr bit => Sys2Proof.Machine.execClrbA8D16 addr bit s
  | .clrbA16D16 addr bit => Sys2Proof.Machine.execClrbA16D16 addr bit s
  | .clrbTB addr bit => Sys2Proof.Machine.execClrbTB addr bit s
  | .getbA8D8 addr bit => Sys2Proof.Machine.execGetbA8D8 addr bit s
  | .getbA16D8 addr bit => Sys2Proof.Machine.execGetbA16D8 addr bit s
  | .getbA8D16 addr bit => Sys2Proof.Machine.execGetbA8D16 addr bit s
  | .getbA16D16 addr bit => Sys2Proof.Machine.execGetbA16D16 addr bit s
  | .getbTB addr bit => Sys2Proof.Machine.execGetbTB addr bit s
  | .capture => Sys2Proof.Machine.execCapture s
  | .deselect => Sys2Proof.Machine.execDeselect s
  | .nmeaLine lbase llen => Sys2Proof.Machine.execNmeaLine lbase llen s
  | .nmeaBuf lbase llen => Sys2Proof.Machine.execNmeaBuf lbase llen s

end Sys2Proof.Machine
end

