-- ==== Sys2Proof/Machine/Sequencer.lean ====
section
/-! DEFINITION. The sequencer's turn (R8, R9, R50): the command it executes is the one `CUR_CMD` holds, and one turn is one step
of it. -/

namespace Sys2Proof.Machine

/-- The command that `CUR_CMD` holds, with its decoded fields (R50, R110; log 23). -/
def currentCommand (s : State) : Except DecodeError Instr := decode s.curCmd

/-- The sequencer's turn between commands: "Between commands it does nothing" (R305; log 30). -/
def idleTurn (s : State) : State := s

/-- One step of the sequencer (R9). -/
def seqStep (s : State) : StepResult :=
  if s.busy then
    match currentCommand s with
    | .ok i => exec i s
    | .error _ => .refused (.illegalDescriptor s.curCmd)
  else .next (idleTurn s)

/-- `s` with the descriptor `w` taken as the host's write to CMD takes it (R118), and the sequencer's turn next (log 1).
Bits of `w` from `nbits` upward count as zero. -/
def placeCommand (s : State) (nbits w : Nat) : State :=
  { takeCommand (BitVec.ofNat 64 (w % 2 ^ nbits)) s with inputs := .sequencer :: s.inputs }

end Sys2Proof.Machine
end

