-- ==== Sys2Proof/Machine/Step.lean ====
section
/-! DEFINITION. One step of the machine (R9): the turn that the schedule gives, a host action or one step of the sequencer;
with an empty schedule the sequencer moves. -/

namespace Sys2Proof.Machine

/-- One step of the machine (R8, R9, R306; log 2). -/
def step (s : State) : Host.Outcome State Fault Refusal :=
  match s.inputs with
  | .host a :: rest => .next (hostAct a { s with inputs := rest })
  | .sequencer :: rest => seqStep { s with inputs := rest }
  | [] => seqStep s

/-- `s` with the command `w` where the next step runs it (log 1). -/
def State.withFetchWord (s : State) (nbits w : Nat) : State := placeCommand s nbits w

end Sys2Proof.Machine
end

