-- ==== Sys2Proof/Safety.lean ====
section
/-! DEFINITION. What a safe run is: the invariants of the sequencer, of the memories and of the capture engine, the disciplines
the event history keeps (R324, R325), the bounds of R331, the frame a capture must deliver (R206), and what a line of text
means by the rules of R242 to R252, said without the decoder. -/

namespace Sys2Proof.Safety

open Sys2Proof.Machine

/-! ### Runs -/

/-- `n` steps of the machine, stopping at the first fault or refusal. -/
def runSteps (n : Nat) (s : State) : Host.Outcome State Fault Refusal := Host.Core.run Sys2Proof.core n s

/-- The state after the host issued a command to an idle block: its descriptor taken (R118). -/
def issued (i : Instr) (s : State) : State := takeCommand (encode i) s

/-! ### The sequencer -/

/-- The program points of a write through a port: after the write, and before its delay if it has one (R142). -/
def writePoint (p : Port) (k : Point) : Bool := k == .written || (hasDelay p && k == .delay)

/-- The program points of a capture (R191 to R205). -/
def capturePoint : Point → Bool
  | .armClear | .armStart | .polled | .size1 | .size2 | .size3 | .csAsserted | .burstOpen | .pulled => true
  | .rotDeasserted _ | .rotFlushed _ | .rotAsserted _ | .rotBurst _ => true
  | .eofFlushed | .eofDeasserted | .exhausted => true
  | .idle | .start | .delay | .written | .read | .deselected => false

/-- The program points of a command after its first (R50). -/
def laterPoint : Instr → Point → Bool
  | .wrA8D8 _ _, k => writePoint .a8d8 k
  | .wrA16D8 _ _, k => writePoint .a16d8 k
  | .wrTB _ _, k => writePoint .tb k
  | .rdA8D8 _, k | .rdA16D8 _, k | .rdTB _, k => k == .read
  | .tblA8D8 _ _, k => writePoint .a8d8 k
  | .tblA16D8 _ _, k => writePoint .a16d8 k
  | .setbA8D8 _ _, k | .clrbA8D8 _ _, k => k == .read || writePoint .a8d8 k
  | .setbA16D8 _ _, k | .clrbA16D8 _ _, k => k == .read || writePoint .a16d8 k
  | .setbTB _ _, k | .clrbTB _ _, k => k == .read || writePoint .tb k
  | .getbA8D8 _ _, k | .getbA16D8 _ _, k | .getbTB _ _, k => k == .read
  | .capture, k => capturePoint k
  | .deselect, k => k == .deselected
  | .nop, _ | .nmeaLine _ _, _ | .nmeaBuf _ _, _ => false
  | .wrA8D16 _ _, _ | .wrA16D16 _ _, _ | .rdA8D16 _, _ | .rdA16D16 _, _ => false
  | .tblA8D16 _ _, _ | .tblA16D16 _ _, _ => false
  | .setbA8D16 _ _, _ | .setbA16D16 _ _, _ | .clrbA8D16 _ _, _ | .clrbA16D16 _ _, _ => false
  | .getbA8D16 _ _, _ | .getbA16D16 _ _, _ => false

/-- Whether a program point is one of a command's (R50). -/
def ownsPoint (i : Instr) (k : Point) : Bool := k == .start || laterPoint i k

/-- The capture engine is in ARMED or STREAMING (R190). -/
def capturing (s : State) : Bool := s.capState == .armed || s.capState == .streaming

/-- Between commands PC_SEQ is idle, no cancel is pending and no capture is under way; a busy sequencer executes a legal
command at one of its program points, and CAP_STATE is ARMED or STREAMING only inside a capture (R34, R36, R50, R190). -/
def SequencerInv (s : State) : Prop :=
  if s.busy then
    match currentCommand s with
    | .ok i => ownsPoint i s.pcSeq = true ∧ (capturing s = true → capturePoint s.pcSeq = true)
    | .error _ => False
  else s.pcSeq = .idle ∧ s.cancelPending = false ∧ capturing s = false

/-! ### The memories -/

/-- Every memory is in canonical form and inside its space (R81, R83, R84). -/
def MemoryInv (s : State) : Prop :=
  Memory.wf s.tmem ∧ Memory.wf (α := Byte) s.lmem ∧ Memory.wf (α := Byte) s.abuf ∧
  (∀ x ∈ s.tmem, x.1 < s.cfg.tmemEntries) ∧ (∀ x ∈ s.lmem, x.1 < s.cfg.lmemBytes) ∧
  (∀ x ∈ s.abuf, x.1 < s.cfg.bufCap)

/-- The cursor never exceeds the capacity, and every byte of ABUF below it has been written; a rotation begins with a full
buffer, and its end stores into an empty one (R202, R203, R322). -/
def BufferInv (s : State) : Prop :=
  s.capCursor.toNat ≤ s.cfg.bufCap ∧
  (∀ k < s.capCursor.toNat, (Memory.read (α := Byte) s.abuf k).isSome = true) ∧
  (match s.pcSeq with
    | .rotDeasserted _ | .rotFlushed _ => s.capCursor.toNat = s.cfg.bufCap
    | .rotAsserted _ | .rotBurst _ => s.capCursor = 0
    | _ => True)

/-! ### The disciplines of the event history -/

/-- What a reader of the history knows of the burst: chip-select asserted since the last deassert, a `BURST_BEGIN` answered
`Ok` since, and no `XFER` issued outside such a burst so far (R325). -/
structure BurstView where
  selected : Bool
  opened : Bool
  lawful : Bool
deriving DecidableEq, Repr

/-- One event of the burst discipline (R325). -/
def BurstView.next (v : BurstView) (e : Event) : BurstView :=
  match e.prim with
  | .csAssert => { v with selected := true, opened := false }
  | .csDeassert => { v with selected := false, opened := false }
  | .burstBegin => { v with opened := v.selected && e.answer != .err }
  | .xfer _ => { v with lawful := v.lawful && v.opened }
  | _ => v

/-- The burst discipline over a history, oldest event first. -/
def burstView (h : List Event) : BurstView := h.foldl BurstView.next ⟨false, false, true⟩

/-- Every `XFER` so far stood in an open burst, and the program points that go on to pull a byte have one open (R54,
R325). -/
def BurstInv (s : State) : Prop :=
  (burstView s.hist).lawful = true ∧
  (match s.pcSeq with
    | .csAsserted | .rotAsserted _ => (burstView s.hist).selected = true
    | .burstOpen | .rotBurst _ => s.ans ≠ .err → (burstView s.hist).opened = true
    | .pulled => (burstView s.hist).opened = true
    | _ => True)

/-- What a reader of the history knows of the delay: whether the last event was a 16-bit-address write, and whether every
earlier one was followed at once by its delay (R142). -/
structure DelayView where
  owed : Bool
  lawful : Bool
deriving DecidableEq, Repr

/-- A 16-bit-address control-bus write (R142). -/
def isWideWrite : Prim → Bool
  | .cbWrite .w16 _ _ _ => true
  | _ => false

/-- One event of the delay discipline (R142, R324). -/
def DelayView.next (v : DelayView) (e : Event) : DelayView :=
  ⟨isWideWrite e.prim, v.lawful && (!v.owed || e.prim == .delayMs 1)⟩

/-- The delay discipline over a history, oldest event first. -/
def delayView (h : List Event) : DelayView := h.foldl DelayView.next ⟨false, true⟩

/-- The commands that write through port A16D8 (R142). -/
def writesWide : Instr → Bool
  | .wrA16D8 _ _ | .tblA16D8 _ _ | .setbA16D8 _ _ | .clrbA16D8 _ _ => true
  | _ => false

/-- Every 16-bit-address write so far was followed at once by its delay, but for one issued by the last step, whose command
stands before its delay (R142, R324). -/
def DelayInv (s : State) : Prop :=
  (delayView s.hist).lawful = true ∧
  ((delayView s.hist).owed = true →
    s.busy = true ∧ s.pcSeq = .delay ∧ ∃ i, currentCommand s = .ok i ∧ writesWide i = true)

/-- The schedule's next turn is a host reset. -/
def resetNext (s : State) : Bool := s.inputs.head? == some (.host .reset)

/-! ### The bounds of a command -/

/-- R331: the most primitives a command issues, where `len` is the length a capture read. -/
def mostPrimitives (c : Params) (len : Nat) : Instr → Nat
  | .nop | .nmeaLine _ _ | .nmeaBuf _ _ => 0
  | .wrA8D8 _ _ | .wrA16D8 _ _ | .wrA8D16 _ _ | .wrA16D16 _ _ | .wrTB _ _ => 2
  | .rdA8D8 _ | .rdA16D8 _ | .rdA8D16 _ | .rdA16D16 _ | .rdTB _ => 2
  | .setbA8D8 _ _ | .setbA16D8 _ _ | .setbA8D16 _ _ | .setbA16D16 _ _ | .setbTB _ _ => 3
  | .clrbA8D8 _ _ | .clrbA16D8 _ _ | .clrbA8D16 _ _ | .clrbA16D16 _ _ | .clrbTB _ _ => 3
  | .getbA8D8 _ _ | .getbA16D8 _ _ | .getbA8D16 _ _ | .getbA16D16 _ _ | .getbTB _ _ => 3
  | .deselect => 1
  | .tblA8D8 _ tlen | .tblA16D8 _ tlen | .tblA8D16 _ tlen | .tblA16D16 _ tlen => 2 * tlen.toNat
  | .capture => 2 + c.pollLimit + 3 + 2 + 5 * len + 2

/-! ### Tables -/

/-- The events of writing one table entry through a port, under an answer (R142, R164). -/
def entryEvents (p : Port) (e : Word32) (a : Answer) : List Event :=
  ⟨.cbWrite (addrWidth p) (dataWidth p) (entryAddr e &&& addrMask p) (entryVal e &&& dataMask p), a⟩ ::
    (if hasDelay p then [⟨.delayMs 1, .ok 0⟩] else [])

/-- The events of writing entries in order, all answered `Ok` (R164). -/
def tableEvents (p : Port) (es : List Word32) : List Event := es.flatMap (fun e => entryEvents p e (.ok 0))

/-- TMEM holds the entries `es` from index `base` on. -/
def tableAt (s : State) (base : Nat) (es : List Word32) : Prop :=
  ∀ k (h : k < es.length), Memory.read s.tmem (base + k) = some es[k]

/-! ### Captured frames -/

/-- The bytes that `XFER` delivered, oldest first (R199). -/
def pulledBytes (h : List Event) : List Byte :=
  h.filterMap fun e =>
    match e.prim, e.answer with
    | .xfer _, .ok v => some (v.setWidth 8)
    | _, _ => none

/-- The bytes of the sink writes answered `Ok`, oldest first (R46, R85). -/
def sunkBytes (h : List Event) : List Byte :=
  h.flatMap fun e =>
    match e.prim, e.answer with
    | .sinkWrite bytes, .ok _ => bytes
    | _, _ => []

/-- A byte sequence from its first start-of-image marker `0xFF,0xD8` on (R206). -/
def fromStartMarker : List Byte → Option (List Byte)
  | [] => none
  | b :: bs =>
    if b = 0xFF ∧ bs.head? = some 0xD8 then some (b :: bs)
    else fromStartMarker bs

/-- A byte sequence up to its first end-of-image marker `0xFF,0xD9`, inclusive (R206). -/
def throughEndMarker : List Byte → Option (List Byte)
  | [] => none
  | b :: bs =>
    if b = 0xFF ∧ bs.head? = some 0xD9 then some [0xFF, 0xD9]
    else (throughEndMarker bs).map (b :: ·)

/-- The bytes between the first `0xFF,0xD8` and the following `0xFF,0xD9`, inclusive (R206). -/
def firstFrame (bytes : List Byte) : Option (List Byte) := (fromStartMarker bytes).bind throughEndMarker

/-! ### What a line means -/

/-- The XOR of a body's bytes from index 1 on (R243). -/
def bodySum (body : List Byte) : Byte := (body.drop 1).foldl (· ^^^ ·) 0

/-- A hex digit and its value, upper or lower case (R244). -/
def HexDigit (b : Byte) (v : Nat) : Prop :=
  v ≤ 9 ∧ b.toNat = 0x30 + v ∨ 10 ≤ v ∧ v ≤ 15 ∧ (b.toNat + 10 = 0x41 + v ∨ b.toNat + 10 = 0x61 + v)

/-- The bytes after the first `'*'` begin with two hex digits of value `n` (R244). -/
def SendsChecksum (after : List Byte) (n : Nat) : Prop :=
  ∃ h1 h2 rest v1 v2, after = h1 :: h2 :: rest ∧ HexDigit h1 v1 ∧ HexDigit h2 v2 ∧ n = 16 * v1 + v2

/-- The prefix of a kind (R245). -/
def tagOf : Kind → List Byte
  | .gga => ggaTag
  | .rmc => rmcTag

/-- Only `'0'` to `'9'` (R248). -/
def AllDigits (ds : List Byte) : Prop := ∀ b ∈ ds, 0x30 ≤ b.toNat ∧ b.toNat ≤ 0x39

/-- The natural number that digits write in decimal, the first the most significant (R16). -/
def decimal (ds : List Byte) : Nat := Nat.ofDigits 10 (ds.reverse.map fun b => b.toNat - 0x30)

/-- UDEC and its value: digits with at most one `'.'` and at least one digit (R16, R248). -/
def Udec (f : List Byte) (v : Rat) : Prop :=
  ∃ whole part, AllDigits (whole ++ part) ∧ whole ++ part ≠ [] ∧
    (f = whole ∧ part = [] ∨ f = whole ++ 0x2E :: part) ∧ v = (decimal (whole ++ part) : Rat) / 10 ^ part.length

/-- SDEC and its value (R248). -/
def Sdec (f : List Byte) (v : Rat) : Prop := Udec f v ∨ ∃ rest w, f = 0x2D :: rest ∧ Udec rest w ∧ v = -w

/-- UINT and its value (R248). -/
def Uint (f : List Byte) (n : Nat) : Prop := f ≠ [] ∧ AllDigits f ∧ n = decimal f

/-- A hemisphere field and its sign (R249). -/
def Hemisphere (plus minus : Byte) (f : List Byte) (sign : Sign) : Prop :=
  f = [] ∧ sign = .unknown ∨ f = [plus] ∧ sign = .pos ∨ f = [minus] ∧ sign = .neg

/-- A coordinate field with a sign, and its value (R250). -/
def CoordOf (sign : Sign) (f : List Byte) (c : Coord) : Prop := ∃ v, Udec f v ∧ c = ⟨magnitude v, sign⟩

/-- A field is empty, meaning no value, or matches its grammar with a value (R248). -/
def OptionalOf {α : Type} (grammar : List Byte → α → Prop) (f : List Byte) (o : Option α) : Prop :=
  f = [] ∧ o = none ∨ f ≠ [] ∧ ∃ v, grammar f v ∧ o = some v

/-- The update that well-formed fields give; there is none if a used field is malformed (R251, R252). -/
def UpdateOf : Kind → List (List Byte) → Loc → Prop
  | .gga, fs, u =>
    ∃ signLat signLon,
      Hemisphere 0x4E 0x53 (fieldAt fs 3) signLat ∧ Hemisphere 0x45 0x57 (fieldAt fs 5) signLon ∧
      OptionalOf (CoordOf signLat) (fieldAt fs 2) u.lat ∧ OptionalOf (CoordOf signLon) (fieldAt fs 4) u.lon ∧
      OptionalOf Uint (fieldAt fs 6) u.fixq ∧ OptionalOf Uint (fieldAt fs 7) u.nsat ∧
      OptionalOf Sdec (fieldAt fs 9) u.alt ∧ u.spd = none ∧ u.crs = none
  | .rmc, fs, u =>
    OptionalOf Udec (fieldAt fs 7) u.spd ∧ OptionalOf Udec (fieldAt fs 8) u.crs ∧
    u.lat = none ∧ u.lon = none ∧ u.alt = none ∧ u.fixq = none ∧ u.nsat = none

end Sys2Proof.Safety
end

