-- ==== Sys2Proof/Certificates/Slice0/Obligations.lean ====
section
/-! DEFINITION. The statements for the provers, from the numbered rules of spec/. -/

open Sys2Proof Sys2Proof.Machine Sys2Proof.Safety

/-! ### Encoding -/

/-- R111, R120: decoding the descriptor of a well-formed command gives the command back, for every command and every value
of its operands. -/
def Obligations.DecodeUndoesEncode : Prop :=
  ∀ i : Instr, i.wellFormed = true → decode (encode i) = .ok i

/-- R117, R118: the decoder accepts exactly the legal descriptors; what it reads is well-formed and has that descriptor. -/
def Obligations.DecoderReadsExactlyLegal : Prop :=
  ∀ c : Desc,
    (legal c = true ↔ ∃ i, decode c = .ok i) ∧
    ∀ i, decode c = .ok i → i.wellFormed = true ∧ encode i = c

/-- R117, R120: the legal descriptors are exactly those that a row of the opcode table matches, and no descriptor is
matched by two rows. -/
def Obligations.LegalDescriptorsAreTableRows : Prop :=
  ∀ c : Desc,
    (opcodeRows.filter (fun r => r.covers c)).length = if legal c = true then 1 else 0

/-- R120, R121: words written out from the opcode map decode to the commands they stand for. -/
def Obligations.WrittenOutWordsDecode : Prop :=
  decode 0x0000000000000000 = .ok .nop ∧
  decode 0x0000008030080101 = .ok (.wrA16D8 0x3008 0x0080) ∧
  decode 0x00000000300A0102 = .ok (.rdA16D8 0x300A) ∧
  decode 0x0000006400040103 = .ok (.tblA16D8 4 100) ∧
  decode 0x0000000000031404 = .ok (.setbTB 0x0003 1) ∧
  decode 0x0000000000000010 = .ok .capture ∧
  decode 0x00000048000A0020 = .ok (.nmeaLine 10 72) ∧
  decode 0x0000000000008004 = .error .bitOutOfRange ∧
  decode 0x0000000000000403 = .error .badPort

/-! ### The step -/

/-- R9, R50, R305, R306: a host action is one step by itself; on the sequencer's turn a busy block runs one step of the
command that CUR_CMD decodes to, and an idle block does nothing. The MODEL's choices are: whose turn it is stands in the
schedule `inputs`, and an empty schedule lets the sequencer move (DESIGN CHOICE, log 2); an idle turn is a step that keeps
the state (DEDUCED from R305, log 30). -/
def Obligations.StepRunsDecodedCommand : Prop :=
  ∀ (s : State) (rest : List Turn),
    (∀ i, s.busy = true → decode s.curCmd = .ok i →
      (s.inputs = [] → step s = exec i s) ∧
      (s.inputs = .sequencer :: rest → step s = exec i { s with inputs := rest })) ∧
    (s.busy = false →
      (s.inputs = [] → step s = .next s) ∧
      (s.inputs = .sequencer :: rest → step s = .next { s with inputs := rest })) ∧
    (∀ a, s.inputs = .host a :: rest → step s = .next (hostAct a { s with inputs := rest }))

/-- The MODEL's choice (DESIGN CHOICE, log 1), no rule of the spec: `withFetchWord` places a well-formed command's
descriptor as taken, also where the block is busy, and puts one sequencer turn in front of the schedule; the very next step
is then the first step of that command, in the state that taking it from an idle block leaves (R118). -/
def Obligations.FetchWordStepRunsCommand : Prop :=
  ∀ (i : Instr) (s : State), i.wellFormed = true →
    step (s.withFetchWord 64 (encode i).toNat) = exec i (issued i s)

/-- R9: one step of a command performs at most one external primitive, which is appended to the history; a step that
performs none ends the command. -/
def Obligations.OnePrimitivePerStep : Prop :=
  ∀ (i : Instr) (s t : State), exec i s = .next t →
    (t.hist = s.hist ∧ t.busy = false ∧ t.pcSeq = .idle) ∨
    (∃ e, t.hist = s.hist ++ [e] ∧ t.busy = s.busy ∧ t.pcSeq ≠ .idle ∧ t.pcSeq ≠ .start)

/-! ### Reset -/

/-- R321, R322: the reset values the spec states, and STATUS reads 0. -/
def Obligations.ResetLeavesStatedValues : Prop :=
  let s := State.reset
  s.cmdLast = 0 ∧ s.busy = false ∧ s.ovr = false ∧ s.cancelPending = false ∧ s.err = .ok ∧ s.capState = .idle ∧
  s.inFrame = false ∧ s.csState = .deselected ∧ s.resultWritten = false ∧ s.errPrim = .none ∧ s.errIdx = 0 ∧
  s.tblCount = 0 ∧ s.capLen = 0 ∧ s.capRemain = 0 ∧ s.capCursor = 0 ∧ s.capPrev = 0 ∧ s.capCur = 0 ∧ s.capOut = 0 ∧
  s.pollCount = 0 ∧ s.loc = ⟨none, none, none, none, none, none, none⟩ ∧ s.nmeaOk = 0 ∧ s.nmeaBad = 0 ∧ s.nmeaUnk = 0 ∧
  s.pcSeq = .idle ∧ s.tmem = [] ∧ s.lmem = [] ∧ s.abuf = [] ∧ statusWord s = 0 ∧ errInfoWord s = 0

/-- R320, R321, R322: a host reset abandons an executing command at once and gives every register and memory its reset
value; it appends no event and reaches neither the sink nor the configuration. -/
def Obligations.HostResetAbandonsCommand : Prop :=
  ∀ s : State,
    let t := hostAct .reset s
    t.hist = s.hist ∧ t.sink = s.sink ∧ t.cfg = s.cfg ∧ t.inputs = s.inputs ∧ t.answers = s.answers ∧
    t.cmdLast = 0 ∧ t.busy = false ∧ t.ovr = false ∧ t.cancelPending = false ∧ t.err = .ok ∧ t.capState = .idle ∧
    t.inFrame = false ∧ t.csState = .deselected ∧ t.resultWritten = false ∧ t.errPrim = .none ∧ t.errIdx = 0 ∧
    t.tblCount = 0 ∧ t.capLen = 0 ∧ t.capRemain = 0 ∧ t.capCursor = 0 ∧ t.capPrev = 0 ∧ t.capCur = 0 ∧ t.capOut = 0 ∧
    t.pollCount = 0 ∧ t.loc = ⟨none, none, none, none, none, none, none⟩ ∧ t.nmeaOk = 0 ∧ t.nmeaBad = 0 ∧
    t.nmeaUnk = 0 ∧ t.pcSeq = .idle ∧ t.tmem = [] ∧ t.lmem = [] ∧ t.abuf = []

/-! ### The host interface -/

/-- R118: a write to CMD of an idle block takes a legal descriptor, and refuses an illegal one with ILLEGAL_COMMAND, changing
nothing but CMD_LAST, ERR and ERR_INFO; of a busy block it is discarded and sets OVR. -/
def Obligations.HostCommandIsTakenOrRefused : Prop :=
  ∀ (c : Desc) (s : State),
    (s.busy = false → legal c = true →
      hostAct (.writeReg 0 c) s =
        { s with cmdLast := c, curCmd := c, busy := true, err := .ok, errPrim := .none, errIdx := 0, pcSeq := .start }) ∧
    (s.busy = false → legal c = false →
      hostAct (.writeReg 0 c) s = { s with cmdLast := c, err := .illegalCommand, errPrim := .none, errIdx := 0 }) ∧
    (s.busy = true → hostAct (.writeReg 0 c) s = { s with ovr := true })

/-- R35: while BUSY = 1 a host write to CMD, TMEM or LMEM is discarded and sets OVR; a set OVR stays set through every step
but a host reset and a host write of 1 to CTRL.CLR_OVR, which clear it; an idle block never sets it; and no command reads or
changes it. -/
def Obligations.OverrunFlagIsSticky : Prop :=
  (∀ (s : State) (c : Desc) (i : Nat) (e : Word32) (b : Byte), s.busy = true →
    hostAct (.writeReg 0 c) s = { s with ovr := true } ∧
    hostAct (.writeTmem i e) s = { s with ovr := true } ∧
    hostAct (.writeLmem i b) s = { s with ovr := true }) ∧
  (∀ s t : State, step s = .next t → s.ovr = true →
    t.ovr = true ∨ (t.ovr = false ∧
      ((∃ rest, s.inputs = .host .reset :: rest) ∨
        (∃ v rest, s.inputs = .host (.writeReg 1 v) :: rest ∧ v.getLsbD 1 = true)))) ∧
  (∀ (s : State) (v : BitVec 64), v.getLsbD 1 = true →
    (hostAct (.writeReg 1 v) s).ovr = false ∧ (hostAct .reset s).ovr = false) ∧
  (∀ s t : State, step s = .next t → s.busy = false → s.ovr = false → t.ovr = false) ∧
  (∀ (i : Instr) (s t : State) (b : Bool), exec i s = .next t →
    t.ovr = s.ovr ∧ exec i { s with ovr := b } = .next { t with ovr := b })

/-- R32: a host write to CTRL acts on CANCEL_PENDING only while BUSY = 1 and on OVR always, by its bits 0 and 1 alone; a read
of CTRL returns 0. -/
def Obligations.ControlRegisterBits : Prop :=
  ∀ (v : BitVec 64) (s : State),
    hostAct (.writeReg 1 v) s =
      { s with
        cancelPending := if v.getLsbD 0 = true ∧ s.busy = true then true else s.cancelPending
        ovr := if v.getLsbD 1 = true then false else s.ovr } ∧
    (hostAct (.readReg 1) s).hostData = some (.word 0)

/-- R306: an idle block's TMEM and LMEM take a host write in range, which then reads back, with every other index as before;
a write out of range is ignored. -/
def Obligations.HostMemoryWriteReadsBack : Prop :=
  ∀ (s : State) (i j : Nat) (e : Word32) (b : Byte), s.busy = false →
    (i < s.cfg.tmemEntries →
      ∃ m, hostAct (.writeTmem i e) s = { s with tmem := m } ∧
        Memory.read m i = some e ∧ (j ≠ i → Memory.read m j = Memory.read s.tmem j)) ∧
    (s.cfg.tmemEntries ≤ i → hostAct (.writeTmem i e) s = s) ∧
    (i < s.cfg.lmemBytes →
      ∃ m : List Host.Cell, hostAct (.writeLmem i b) s = { s with lmem := m } ∧
        Memory.read (α := Byte) m i = some b ∧
        (j ≠ i → Memory.read (α := Byte) m j = Memory.read (α := Byte) s.lmem j)) ∧
    (s.cfg.lmemBytes ≤ i → hostAct (.writeLmem i b) s = s)

/-- R32, R33, R49, R306, I13: what a host read of each register index returns (of RESULT, once it is written), with the
fields of STATUS and ERR_INFO at their places and their reserved bits 0; CTRL and reserved indices read 0; a read changes nothing but what the host holds and, for an
unwritten RESULT, the count of drawn values (the model's choice among those of I6, log 10); a write to a read-only or
reserved index is ignored. -/
def Obligations.HostRegisterMap : Prop :=
  ∀ (s : State) (k : Nat) (v : BitVec 64),
    (hostAct (.readReg k) s = { s with
      hostData := (hostAct (.readReg k) s).hostData
      draws := if k = 3 ∧ s.resultWritten = false then s.draws + 1 else s.draws }) ∧
    (hostAct (.readReg 0) s).hostData = some (.word s.cmdLast) ∧
    (hostAct (.readReg 1) s).hostData = some (.word 0) ∧
    (hostAct (.readReg 2) s).hostData = some (.word (BitVec.ofNat 64 (
      (if s.busy then 1 else 0) + 2 * (if s.ovr then 1 else 0) + 4 * (if s.cancelPending then 1 else 0) +
      16 * s.err.code.toNat + 256 * s.capState.code.toNat + 1024 * (if s.inFrame then 1 else 0) +
      2048 * s.csState.code.toNat))) ∧
    (s.resultWritten = true → (hostAct (.readReg 3) s).hostData = some (.word (s.result.setWidth 64))) ∧
    (hostAct (.readReg 4) s).hostData = some (.word (BitVec.ofNat 64 (
      s.errPrim.code.toNat + 65536 * s.errIdx.toNat))) ∧
    (hostAct (.readReg 5) s).hostData = some (.word (s.tblCount.setWidth 64)) ∧
    (hostAct (.readReg 6) s).hostData = some (.word (s.capLen.setWidth 64)) ∧
    (hostAct (.readReg 7) s).hostData = some (.word (s.capRemain.setWidth 64)) ∧
    (hostAct (.readReg 8) s).hostData = some (.word (s.capCursor.setWidth 64)) ∧
    (hostAct (.readReg 9) s).hostData = some (.word ((s.capPrev ++ s.capCur : BitVec 16).setWidth 64)) ∧
    (hostAct (.readReg 10) s).hostData = some (.word (s.capOut.setWidth 64)) ∧
    (hostAct (.readReg 11) s).hostData = some (.word (s.pollCount.setWidth 64)) ∧
    (hostAct (.readReg 12) s).hostData = some (.word (s.nmeaOk.setWidth 64)) ∧
    (hostAct (.readReg 13) s).hostData = some (.word (s.nmeaBad.setWidth 64)) ∧
    (hostAct (.readReg 14) s).hostData = some (.word (s.nmeaUnk.setWidth 64)) ∧
    (hostAct (.readReg 15) s).hostData = some (.coord s.loc.lat) ∧
    (hostAct (.readReg 16) s).hostData = some (.coord s.loc.lon) ∧
    (hostAct (.readReg 17) s).hostData = some (.number s.loc.alt) ∧
    (hostAct (.readReg 18) s).hostData = some (.number s.loc.spd) ∧
    (hostAct (.readReg 19) s).hostData = some (.number s.loc.crs) ∧
    (hostAct (.readReg 20) s).hostData = some (.count s.loc.fixq) ∧
    (hostAct (.readReg 21) s).hostData = some (.count s.loc.nsat) ∧
    (22 ≤ k → (hostAct (.readReg k) s).hostData = some (.word 0)) ∧
    (2 ≤ k → hostAct (.writeReg k v) s = s)

/-- R34, R35, R95: while a command executes, every step but a reset leaves TMEM and LMEM as they were when it was taken; and
until the command ends, CMD_LAST and CUR_CMD stay its descriptor. -/
def Obligations.BusyCommandSeesFixedInputs : Prop :=
  ∀ s t : State, s.busy = true → resetNext s = false → step s = .next t →
    t.tmem = s.tmem ∧ t.lmem = s.lmem ∧ t.cmdLast = s.cmdLast ∧ t.curCmd = s.curCmd ∧ t.cfg = s.cfg

/-- R36: no command sets CANCEL_PENDING, its end clears the flag, and it keeps the flag until then. -/
def Obligations.CommandEndClearsCancel : Prop :=
  ∀ (i : Instr) (s t : State), exec i s = .next t →
    (t.pcSeq = .idle → t.cancelPending = false) ∧ (t.pcSeq ≠ .idle → t.cancelPending = s.cancelPending)

/-! ### Commands of the register driver -/

/-- R294: WR.TB, RD.TB, SETB.TB, CLRB.TB, GETB.TB and CAPTURE refuse with CS_NOT_RELEASED and `ERR_INFO = 0` unless CS_STATE is
DESELECTED, with no event and no other change. -/
def Obligations.TransferBusNeedsReleasedSelect : Prop :=
  ∀ (addr val : Half) (bit : BitVec 4) (s : State) (i : Instr),
    i ∈ [.wrTB addr val, .rdTB addr, .setbTB addr bit, .clrbTB addr bit, .getbTB addr bit, .capture] →
    s.pcSeq = .start → s.csState ≠ .deselected →
    exec i s = .next { s with
      err := .csNotReleased, errPrim := .none, errIdx := 0, cancelPending := false, busy := false, pcSeq := .idle }

/-- R144: NOP ends at once with ERR 0 and no event; issued to an idle block it also clears ERR_INFO. -/
def Obligations.NopOnlyClearsOutcome : Prop :=
  ∀ s : State,
    encode .nop = 0 ∧
    exec .nop s = .next { s with err := .ok, cancelPending := false, busy := false, pcSeq := .idle } ∧
    (s.busy = false → s.inputs = [] →
      runSteps 1 (issued .nop s) = .next { s with
        cmdLast := 0, curCmd := 0, err := .ok, errPrim := .none, errIdx := 0, cancelPending := false, pcSeq := .idle })

/-- R142, R143, R147, R148, R153, R154, R157, R158, R160: every command on an inert port ends in one step with ERR 0, without
an event; WR changes nothing else, TBL clears TBL_COUNT, RD puts a drawn value into RESULT, SETB and CLRB only draw, and
GETB puts bit `bit` of a drawn value into RESULT. That a drawn value is `Config.freeDraw` of a counter which each draw
advances by 1 is the MODEL's choice (DESIGN CHOICE, log 9); the statement holds for every value of the counter. -/
def Obligations.InertPortsIssueNothing : Prop :=
  ∀ (addr val : Half) (bit : BitVec 4) (s : State),
    let ended : State := { s with err := .ok, cancelPending := false, busy := false, pcSeq := .idle }
    let drawn := Config.freeDraw s.draws
    encode (.wrA8D16 addr val) = assemble 0x01 2 0 addr val ∧ encode (.wrA16D16 addr val) = assemble 0x01 3 0 addr val ∧
    encode (.tblA8D16 addr val) = assemble 0x03 2 0 addr val ∧ encode (.tblA16D16 addr val) = assemble 0x03 3 0 addr val ∧
    exec (.wrA8D16 addr val) s = .next ended ∧
    exec (.wrA16D16 addr val) s = .next ended ∧
    exec (.tblA8D16 addr val) s = .next { ended with tblCount := 0 } ∧
    exec (.tblA16D16 addr val) s = .next { ended with tblCount := 0 } ∧
    exec (.rdA8D16 addr) s = .next { ended with result := drawn, resultWritten := true, draws := s.draws + 1 } ∧
    exec (.rdA16D16 addr) s = .next { ended with result := drawn, resultWritten := true, draws := s.draws + 1 } ∧
    exec (.setbA8D16 addr bit) s = .next { ended with rmwV := drawn, draws := s.draws + 1 } ∧
    exec (.setbA16D16 addr bit) s = .next { ended with rmwV := drawn, draws := s.draws + 1 } ∧
    exec (.clrbA8D16 addr bit) s = .next { ended with rmwV := drawn, draws := s.draws + 1 } ∧
    exec (.clrbA16D16 addr bit) s = .next { ended with rmwV := drawn, draws := s.draws + 1 } ∧
    exec (.getbA8D16 addr bit) s = .next { ended with
      result := if drawn.getLsbD bit.toNat then 1 else 0, resultWritten := true, rmwV := drawn, draws := s.draws + 1 } ∧
    exec (.getbA16D16 addr bit) s = .next { ended with
      result := if drawn.getLsbD bit.toNat then 1 else 0, resultWritten := true, rmwV := drawn, draws := s.draws + 1 }

/-- R142, R145, R146, R149: WR on an active port sends one masked write (WR.TB with chip-select released), WR.A16D8 then the
delay whatever the answer, and ends with ERR 0, or with BUS_ERROR and PRIM 1 or 3 if the write was answered `Err`. -/
def Obligations.WriteSteps : Prop :=
  ∀ (addr val : Half) (s : State),
    let narrow : Prim := .cbWrite .w8 .w8 (addr &&& 0x00FF) (val &&& 0x00FF)
    let wide : Prim := .cbWrite .w16 .w8 addr (val &&& 0x00FF)
    let transfer : Prim := .tbWrite (addr.setWidth 8) (val.setWidth 8)
    (s.pcSeq = .start →
      exec (.wrA8D8 addr val) s = .next { s with
        hist := s.hist ++ [⟨narrow, answerTo narrow s⟩], ans := answerTo narrow s, answers := s.answers.tail,
        pcSeq := .written } ∧
      exec (.wrA16D8 addr val) s = .next { s with
        hist := s.hist ++ [⟨wide, answerTo wide s⟩], ans := answerTo wide s, answers := s.answers.tail,
        pcSeq := .delay } ∧
      (s.csState = .deselected → exec (.wrTB addr val) s = .next { s with
        hist := s.hist ++ [⟨transfer, answerTo transfer s⟩], ans := answerTo transfer s, answers := s.answers.tail,
        pcSeq := .written })) ∧
    (s.pcSeq = .delay →
      exec (.wrA16D8 addr val) s = .next { s with hist := s.hist ++ [⟨.delayMs 1, .ok 0⟩], pcSeq := .written }) ∧
    (s.pcSeq = .written →
      ∀ x ∈ [(Instr.wrA8D8 addr val, PrimCode.cbWrite), (.wrA16D8 addr val, .cbWrite), (.wrTB addr val, .tbWrite)],
        (s.ans = .err → exec x.1 s = .next { s with
          err := .busError, errPrim := x.2, errIdx := 0, cancelPending := false, busy := false, pcSeq := .idle }) ∧
        (∀ v, s.ans = .ok v → exec x.1 s = .next { s with
          err := .ok, cancelPending := false, busy := false, pcSeq := .idle }))

/-- R145, R146: WR.A8D8 in two steps and WR.A16D8 in three, from the issue of the command to its end: one masked write (and
its delay, also after `Err`), ERR and ERR_INFO by the answer, and nothing else but the command registers. -/
def Obligations.ControlBusWriteWholeCommand : Prop :=
  ∀ (addr val : Half) (s : State), s.busy = false → s.inputs = [] →
    let narrow : Prim := .cbWrite .w8 .w8 (addr &&& 0x00FF) (val &&& 0x00FF)
    let wide : Prim := .cbWrite .w16 .w8 addr (val &&& 0x00FF)
    runSteps 2 (issued (.wrA8D8 addr val) s) = .next { s with
      cmdLast := assemble 0x01 0 0 addr val
      curCmd := assemble 0x01 0 0 addr val
      hist := s.hist ++ [⟨narrow, answerTo narrow s⟩]
      ans := answerTo narrow s
      answers := s.answers.tail
      err := if answerTo narrow s = .err then .busError else .ok
      errPrim := if answerTo narrow s = .err then .cbWrite else .none
      errIdx := 0
      cancelPending := false
      pcSeq := .idle } ∧
    runSteps 3 (issued (.wrA16D8 addr val) s) = .next { s with
      cmdLast := assemble 0x01 1 0 addr val
      curCmd := assemble 0x01 1 0 addr val
      hist := s.hist ++ [⟨wide, answerTo wide s⟩, ⟨.delayMs 1, .ok 0⟩]
      ans := answerTo wide s
      answers := s.answers.tail
      err := if answerTo wide s = .err then .busError else .ok
      errPrim := if answerTo wide s = .err then .cbWrite else .none
      errIdx := 0
      cancelPending := false
      pcSeq := .idle }

/-- R143, R155, R156, R159: RD on an active port sends one masked read (RD.TB with chip-select released); on `Ok(v)` RESULT
becomes `v` and ERR 0, on `Err` RESULT keeps its value and the command ends with BUS_ERROR and PRIM 2 or 4. -/
def Obligations.ReadSteps : Prop :=
  ∀ (addr : Half) (s : State),
    let narrow : Prim := .cbRead .w8 .w8 (addr &&& 0x00FF)
    let wide : Prim := .cbRead .w16 .w8 addr
    let transfer : Prim := .tbRead (addr.setWidth 8)
    (s.pcSeq = .start →
      exec (.rdA8D8 addr) s = .next { s with
        hist := s.hist ++ [⟨narrow, answerTo narrow s⟩], ans := answerTo narrow s, answers := s.answers.tail,
        pcSeq := .read } ∧
      exec (.rdA16D8 addr) s = .next { s with
        hist := s.hist ++ [⟨wide, answerTo wide s⟩], ans := answerTo wide s, answers := s.answers.tail,
        pcSeq := .read } ∧
      (s.csState = .deselected → exec (.rdTB addr) s = .next { s with
        hist := s.hist ++ [⟨transfer, answerTo transfer s⟩], ans := answerTo transfer s, answers := s.answers.tail,
        pcSeq := .read })) ∧
    (s.pcSeq = .read → s.ans = .err →
      (∀ i ∈ [Instr.rdA8D8 addr, .rdA16D8 addr], exec i s = .next { s with
        err := .busError, errPrim := .cbRead, errIdx := 0, cancelPending := false, busy := false, pcSeq := .idle }) ∧
      exec (.rdTB addr) s = .next { s with
        err := .busError, errPrim := .tbRead, errIdx := 0, cancelPending := false, busy := false, pcSeq := .idle }) ∧
    (∀ v, s.pcSeq = .read → s.ans = .ok v →
      ∀ i ∈ [Instr.rdA8D8 addr, .rdA16D8 addr, .rdTB addr], exec i s = .next { s with
        result := v, resultWritten := true, err := .ok, cancelPending := false, busy := false, pcSeq := .idle })

/-- R143, R155, R156, R159: an RD on an active port (RD.TB with chip-select released), issued to an idle block: two steps
and one event. Answered `Ok(v)` by the environment's script it ends with RESULT `v` and ERR 0, answered `Err` with BUS_ERROR,
PRIM 2 or 4 and RESULT as it was. That a scripted `v` wider than 8 bits, which R14 rules out, is fitted to its low 8 bits is
the MODEL's choice (DEDUCED, log 4), as is the script itself (DESIGN CHOICE, log 3). -/
def Obligations.ReadWholeCommand : Prop :=
  ∀ (addr : Half) (rest : List Answer) (s : State) (i : Instr) (call : Prim) (failed : PrimCode),
    (i, call, failed) ∈ [(Instr.rdA8D8 addr, Prim.cbRead .w8 .w8 (addr &&& 0x00FF), PrimCode.cbRead),
        (.rdA16D8 addr, .cbRead .w16 .w8 addr, .cbRead), (.rdTB addr, .tbRead (addr.setWidth 8), .tbRead)] →
    s.busy = false → s.inputs = [] → (i = .rdTB addr → s.csState = .deselected) →
    (∀ v, s.answers = .ok v :: rest →
      runSteps 2 (issued i s) = .next { s with
        cmdLast := encode i
        curCmd := encode i
        hist := s.hist ++ [⟨call, .ok (v &&& 0x00FF)⟩]
        ans := .ok (v &&& 0x00FF)
        answers := rest
        result := v &&& 0x00FF
        resultWritten := true
        err := .ok
        errPrim := .none
        errIdx := 0
        cancelPending := false
        pcSeq := .idle }) ∧
    (s.answers = .err :: rest →
      runSteps 2 (issued i s) = .next { s with
        cmdLast := encode i
        curCmd := encode i
        hist := s.hist ++ [⟨call, .err⟩]
        ans := .err
        answers := rest
        err := .busError
        errPrim := failed
        errIdx := 0
        cancelPending := false
        pcSeq := .idle })

/-- R150, R151, R152: one entry of a table, at index TI (`ti` is TI as the loop's head finds it: 0 at the start, one more after
an entry answered `Ok`): RANGE_ERROR with IDX = TI out of range, the end with ERR 0 at a sentinel, else the entry's masked
write and one more in TBL_COUNT; the fault `unwrittenTmem` at an unwritten entry. -/
def Obligations.TableEntrySteps : Prop :=
  ∀ (tbase tlen : Half) (s : State) (ti count : Half) (p : Port) (i : Instr),
    (p, i) ∈ [(Port.a8d8, Instr.tblA8D8 tbase tlen), (.a16d8, .tblA16D8 tbase tlen)] →
    (s.pcSeq = .start ∧ ti = 0 ∧ count = 0 ∨
      s.pcSeq = .written ∧ (∃ v, s.ans = .ok v) ∧ ti = s.ti + 1 ∧ count = s.tblCount) →
    let inRange := ti.toNat < tlen.toNat ∧ tbase.toNat + ti.toNat < s.cfg.tmemEntries
    let cell := Memory.read s.tmem (tbase.toNat + ti.toNat)
    (¬inRange → exec i s = .next { s with
      tblCount := count, ti := ti, err := .rangeError, errPrim := .none, errIdx := ti, cancelPending := false,
      busy := false, pcSeq := .idle }) ∧
    (inRange → cell = none → exec i s = .fault (.unwrittenTmem (tbase.toNat + ti.toNat))) ∧
    (∀ e, inRange → cell = some e →
      let a := e.extractLsb' 0 16 &&& addrMask p
      let v := e.extractLsb' 16 16 &&& 0x00FF
      let call : Prim := .cbWrite (addrWidth p) .w8 a v
      if a = addrMask p ∧ v = 0x00FF then
        exec i s = .next { s with
          tblCount := count, ti := ti, err := .ok, cancelPending := false, busy := false, pcSeq := .idle }
      else
        exec i s = .next { s with
          tblCount := count + 1, ti := ti, hist := s.hist ++ [⟨call, answerTo call s⟩], ans := answerTo call s,
          answers := s.answers.tail, pcSeq := if p = .a16d8 then .delay else .written })

/-- R142, R150: the delay after an entry's write on A16D8, and the end of a table at the first write answered `Err`, with IDX
the entry's index. -/
def Obligations.TableDelayAndError : Prop :=
  ∀ (tbase tlen : Half) (s : State),
    (s.pcSeq = .delay →
      exec (.tblA16D8 tbase tlen) s = .next { s with hist := s.hist ++ [⟨.delayMs 1, .ok 0⟩], pcSeq := .written }) ∧
    (s.pcSeq = .written → s.ans = .err → ∀ i ∈ [Instr.tblA8D8 tbase tlen, .tblA16D8 tbase tlen],
      exec i s = .next { s with
        err := .busError, errPrim := .cbWrite, errIdx := s.ti, cancelPending := false, busy := false, pcSeq := .idle })

/-- R164: a TBL on an active port whose range holds the non-sentinel entries `es` and then a sentinel. With every write
answered `Ok` the new history is exactly the writes of `es` in order, each followed on A16D8 by its delay, and the command
ends with TBL_COUNT their number and ERR 0. With the writes before entry `j` answered `Ok` and its write answered `Err`,
the new history ends with that write and its delay, and the command ends with TBL_COUNT `j + 1`, IDX `j` and BUS_ERROR. -/
def Obligations.TableWritesEntriesInOrder : Prop :=
  ∀ (tbase tlen : Half) (es : List Word32) (last : Word32) (oks : List Half) (s : State) (p : Port) (i : Instr),
    (p, i) ∈ [(Port.a8d8, Instr.tblA8D8 tbase tlen), (.a16d8, .tblA16D8 tbase tlen)] →
    s.busy = false → s.inputs = [] →
    es.length < tlen.toNat → tbase.toNat + es.length < s.cfg.tmemEntries →
    tableAt s tbase.toNat (es ++ [last]) → (∀ e ∈ es, isSentinel p e = false) → isSentinel p last = true →
    (∀ rest, s.answers = oks.map Answer.ok ++ rest → oks.length = es.length →
      ∃ t, runSteps (2 * es.length + 1) (issued i s) = .next t ∧
        t.hist = s.hist ++ tableEvents p es ∧ t.tblCount.toNat = es.length ∧ t.err = .ok ∧ t.errPrim = .none ∧
        t.errIdx = 0 ∧ t.busy = false ∧ t.answers = rest) ∧
    (∀ rest j (h : j < es.length), s.answers = oks.map Answer.ok ++ .err :: rest → oks.length = j →
      ∃ t, runSteps (2 * j + 3) (issued i s) = .next t ∧
        t.hist = s.hist ++ tableEvents p (es.take j) ++ entryEvents p es[j] .err ∧ t.tblCount.toNat = j + 1 ∧
        t.err = .busError ∧ t.errPrim = .cbWrite ∧ t.errIdx.toNat = j ∧ t.busy = false ∧ t.answers = rest)

/-- R160, R161, R162: SETB and CLRB on an active port read the register (on TB with chip-select released), write it back with
the bit set or clear, on A16D8 wait the delay, and end with ERR 0; an `Err` on the read ends the command with PRIM 2 or 4
and no write, on the write with PRIM 1 or 3. -/
def Obligations.SetAndClearBitSteps : Prop :=
  ∀ (addr : Half) (bit : BitVec 4) (s : State) (p : Port) (i : Instr) (modify : Half → Half),
    (p, i) ∈ [(Port.a8d8, Instr.setbA8D8 addr bit), (.a16d8, .setbA16D8 addr bit), (.tb, .setbTB addr bit)] ∧
        modify = (fun v => v ||| 1#16 <<< bit.toNat) ∨
      (p, i) ∈ [(Port.a8d8, Instr.clrbA8D8 addr bit), (.a16d8, .clrbA16D8 addr bit), (.tb, .clrbTB addr bit)] ∧
        modify = (fun v => v &&& ~~~(1#16 <<< bit.toNat)) →
    let readIt : Prim := if p = .tb then .tbRead (addr.setWidth 8) else .cbRead (addrWidth p) .w8 (addr &&& addrMask p)
    let writeIt (v : Half) : Prim :=
      if p = .tb then .tbWrite (addr.setWidth 8) ((modify v).setWidth 8)
      else .cbWrite (addrWidth p) .w8 (addr &&& addrMask p) (modify v &&& 0x00FF)
    (s.pcSeq = .start → (p = .tb → s.csState = .deselected) →
      exec i s = .next { s with
        hist := s.hist ++ [⟨readIt, answerTo readIt s⟩], ans := answerTo readIt s, answers := s.answers.tail,
        pcSeq := .read }) ∧
    (∀ v, s.pcSeq = .read → s.ans = .ok v →
      exec i s = .next { s with
        rmwV := v, hist := s.hist ++ [⟨writeIt v, answerTo (writeIt v) s⟩], ans := answerTo (writeIt v) s,
        answers := s.answers.tail, pcSeq := if p = .a16d8 then .delay else .written }) ∧
    (s.pcSeq = .read → s.ans = .err →
      exec i s = .next { s with
        err := .busError, errPrim := if p = .tb then .tbRead else .cbRead, errIdx := 0, cancelPending := false,
        busy := false, pcSeq := .idle }) ∧
    (s.pcSeq = .delay → p = .a16d8 →
      exec i s = .next { s with hist := s.hist ++ [⟨.delayMs 1, .ok 0⟩], pcSeq := .written }) ∧
    (∀ v, s.pcSeq = .written → s.ans = .ok v →
      exec i s = .next { s with err := .ok, cancelPending := false, busy := false, pcSeq := .idle }) ∧
    (s.pcSeq = .written → s.ans = .err →
      exec i s = .next { s with
        err := .busError, errPrim := if p = .tb then .tbWrite else .cbWrite, errIdx := 0, cancelPending := false,
        busy := false, pcSeq := .idle })

/-- R160, R163: GETB on an active port reads the register (on TB with chip-select released) and puts the bit, 0 or 1, into
RESULT, without a write or a delay; an `Err` ends it with PRIM 2 or 4 and RESULT as it was. -/
def Obligations.GetBitSteps : Prop :=
  ∀ (addr : Half) (bit : BitVec 4) (s : State) (p : Port) (i : Instr),
    (p, i) ∈ [(Port.a8d8, Instr.getbA8D8 addr bit), (.a16d8, .getbA16D8 addr bit), (.tb, .getbTB addr bit)] →
    let readIt : Prim := if p = .tb then .tbRead (addr.setWidth 8) else .cbRead (addrWidth p) .w8 (addr &&& addrMask p)
    (s.pcSeq = .start → (p = .tb → s.csState = .deselected) →
      exec i s = .next { s with
        hist := s.hist ++ [⟨readIt, answerTo readIt s⟩], ans := answerTo readIt s, answers := s.answers.tail,
        pcSeq := .read }) ∧
    (∀ v, s.pcSeq = .read → s.ans = .ok v →
      exec i s = .next { s with
        rmwV := v, result := if v.getLsbD bit.toNat then 1 else 0, resultWritten := true, err := .ok,
        cancelPending := false, busy := false, pcSeq := .idle }) ∧
    (s.pcSeq = .read → s.ans = .err →
      exec i s = .next { s with
        err := .busError, errPrim := if p = .tb then .tbRead else .cbRead, errIdx := 0, cancelPending := false,
        busy := false, pcSeq := .idle })

/-- R142, R160, R161, R162: SETB.A16D8 and CLRB.A16D8 issued to an idle block, read and write answered `Ok`: after four steps the
history holds the read, the write of the value read with the one bit set or clear, and the delay, in this order; ERR is 0
and RESULT is as it was. The MODEL's choices are: the answers come from the environment's script (DESIGN CHOICE, log 3); a
scripted `v` wider than 8 bits, which R14 rules out, is fitted to its low 8 bits, and the write's `Ok`, which by R14 has no
value, is held as `ok 0` whatever the scripted `w` (DEDUCED, log 4). -/
def Obligations.WideBitWholeCommand : Prop :=
  ∀ (addr v w : Half) (bit : BitVec 4) (rest : List Answer) (s : State) (set : Bool),
    bit.toNat ≤ 7 → s.busy = false → s.inputs = [] → s.answers = .ok v :: .ok w :: rest →
    let i : Instr := if set then .setbA16D8 addr bit else .clrbA16D8 addr bit
    ∃ t, runSteps 4 (issued i s) = .next t ∧
      (∃ x : Half, t.hist = s.hist ++ [⟨.cbRead .w16 .w8 addr, .ok (v &&& 0x00FF)⟩,
          ⟨.cbWrite .w16 .w8 addr x, .ok 0⟩, ⟨.delayMs 1, .ok 0⟩] ∧
        ∀ k < 16, x.getLsbD k = if k = bit.toNat then set else (k < 8 && v.getLsbD k)) ∧
      t.busy = false ∧ t.err = .ok ∧ t.errPrim = .none ∧ t.errIdx = 0 ∧ t.result = s.result ∧
      t.resultWritten = s.resultWritten ∧ t.answers = rest

/-- R141, R160, R166: SETB sets and CLRB clears exactly the named bit, GETB returns it, and for a bit below the data width of
the port the value written has no bit above that width. -/
def Obligations.BitOperationsTouchOneBit : Prop :=
  ∀ (v : Half) (bit : BitVec 4) (p : Port) (k : Nat), k < 16 →
    (withBitSet v bit).getLsbD k = (v.getLsbD k || (k == bit.toNat)) ∧
    (withBitClear p v bit).getLsbD k = (v.getLsbD k && (k != bit.toNat) && (dataMask p).getLsbD k) ∧
    bitOf v bit = (if v.getLsbD bit.toNat then 1 else 0) ∧
    (v &&& ~~~dataMask p = 0 → oneBit bit &&& ~~~dataMask p = 0 → withBitSet v bit &&& ~~~dataMask p = 0)

/-- R35, R41, R43, R81, R83 to R85, R140: no command of the register driver writes a CAP, LOC or NMEA register, CAP_STATE,
IN_FRAME or CS_STATE, OVR, a memory, the sink or the configuration; RESULT changes only under RD and GETB, and TBL_COUNT and
TI only under TBL. -/
def Obligations.RegisterDriverFrame : Prop :=
  ∀ (addr val : Half) (bit : BitVec 4) (s t : State) (i : Instr),
    let reads := [Instr.rdA8D8 addr, .rdA16D8 addr, .rdA8D16 addr, .rdA16D16 addr, .rdTB addr, .getbA8D8 addr bit,
      .getbA16D8 addr bit, .getbA8D16 addr bit, .getbA16D16 addr bit, .getbTB addr bit]
    let tables := [Instr.tblA8D8 addr val, .tblA16D8 addr val, .tblA8D16 addr val, .tblA16D16 addr val]
    let others := [Instr.nop, .wrA8D8 addr val, .wrA16D8 addr val, .wrA8D16 addr val, .wrA16D16 addr val, .wrTB addr val,
      .setbA8D8 addr bit, .setbA16D8 addr bit, .setbA8D16 addr bit, .setbA16D16 addr bit, .setbTB addr bit,
      .clrbA8D8 addr bit, .clrbA16D8 addr bit, .clrbA8D16 addr bit, .clrbA16D16 addr bit, .clrbTB addr bit]
    i ∈ reads ++ tables ++ others → exec i s = .next t →
      t.cfg = s.cfg ∧ t.cmdLast = s.cmdLast ∧ t.curCmd = s.curCmd ∧ t.ovr = s.ovr ∧ t.capState = s.capState ∧
      t.inFrame = s.inFrame ∧ t.csState = s.csState ∧ t.capLen = s.capLen ∧ t.capRemain = s.capRemain ∧
      t.capCursor = s.capCursor ∧ t.capPrev = s.capPrev ∧ t.capCur = s.capCur ∧ t.capOut = s.capOut ∧
      t.pollCount = s.pollCount ∧ t.nmeaOk = s.nmeaOk ∧ t.nmeaBad = s.nmeaBad ∧ t.nmeaUnk = s.nmeaUnk ∧ t.loc = s.loc ∧
      t.tmem = s.tmem ∧ t.lmem = s.lmem ∧ t.abuf = s.abuf ∧ t.sink = s.sink ∧ t.inputs = s.inputs ∧
      (i ∉ reads → t.result = s.result ∧ t.resultWritten = s.resultWritten) ∧
      (i ∉ tables → t.tblCount = s.tblCount ∧ t.ti = s.ti)

/-! ### Commands of the capture engine -/

/-- R193, R194: CAPTURE with chip-select released clears the session registers and sends the first arming write; answered `Ok`
it sends the second. -/
def Obligations.CaptureArms : Prop :=
  ∀ s : State,
    let clear : Prim := .tbWrite s.cfg.regFifoCtrl s.cfg.maskFifoClear
    let start : Prim := .tbWrite s.cfg.regFifoCtrl s.cfg.maskFifoStart
    (s.pcSeq = .start → s.csState = .deselected →
      exec .capture s = .next { s with
        capLen := 0, capRemain := 0, capCursor := 0, capPrev := 0, capCur := 0, capOut := 0, pollCount := 0,
        inFrame := false, capState := .idle, hist := s.hist ++ [⟨clear, answerTo clear s⟩], ans := answerTo clear s,
        answers := s.answers.tail, pcSeq := .armClear }) ∧
    (∀ v, s.pcSeq = .armClear → s.ans = .ok v →
      exec .capture s = .next { s with
        hist := s.hist ++ [⟨start, answerTo start s⟩], ans := answerTo start s, answers := s.answers.tail,
        pcSeq := .armStart })

/-- R190, R195, R196: ARMED after the second arming write, and the capture-done poll: before each read the cancel check, then
the bound; a read with the done bit set enters STREAMING and reads the first size register, one without it polls again. -/
def Obligations.CapturePolls : Prop :=
  ∀ (s : State) (v : Half),
    let trig : Prim := .tbRead s.cfg.regTrig
    let size1 : Prim := .tbRead s.cfg.regSize1
    s.ans = .ok v →
    (s.pcSeq = .polled → v.setWidth 8 &&& s.cfg.maskCapDone ≠ 0 →
      exec .capture s = .next { s with
        capState := .streaming, hist := s.hist ++ [⟨size1, answerTo size1 s⟩], ans := answerTo size1 s,
        answers := s.answers.tail, pcSeq := .size1 }) ∧
    (s.pcSeq = .armStart ∨ s.pcSeq = .polled ∧ s.capState = .armed ∧ v.setWidth 8 &&& s.cfg.maskCapDone = 0 →
      if s.cancelPending = true then
        exec .capture s = .next { s with
          capState := .idle, err := .cancelled, errPrim := .none, errIdx := 0, cancelPending := false, busy := false,
          pcSeq := .idle }
      else if s.pollCount.toNat = s.cfg.pollLimit then
        exec .capture s = .next { s with
          capState := .idle, err := .captureTimeout, errPrim := .none, errIdx := 0, cancelPending := false,
          busy := false, pcSeq := .idle }
      else
        exec .capture s = .next { s with
          capState := .armed, pollCount := s.pollCount + 1, hist := s.hist ++ [⟨trig, answerTo trig s⟩],
          ans := answerTo trig s, answers := s.answers.tail, pcSeq := .polled })

/-- R196: the FIFO length is `(size3 & 0x7F) << 16 | size2 << 8 | size1`, at most `0x7FFFFF`; bit 7 of size3 never
reaches it. -/
def Obligations.FifoLengthFormula : Prop :=
  ∀ size1 size2 size3 : Byte,
    (fifoLength size1 size2 size3).toNat = size3.toNat % 128 * 65536 + size2.toNat * 256 + size1.toNat

/-- R196, R197, R198: the size registers are read in the order size1, size2, size3; then CAP_LEN holds the length, 0 gives
EMPTY_BUFFER, a length at or above MAX_FIFO_SIZE gives BUFFER_OVERFLOW, and any other asserts chip-select with CAP_REMAIN the
length. -/
def Obligations.CaptureReadsLength : Prop :=
  ∀ (s : State) (v : Half), s.ans = .ok v →
    let size2 : Prim := .tbRead s.cfg.regSize2
    let size3 : Prim := .tbRead s.cfg.regSize3
    let len := fifoLength s.size1 s.size2 (v.setWidth 8)
    (s.pcSeq = .size1 → exec .capture s = .next { s with
      size1 := v.setWidth 8, hist := s.hist ++ [⟨size2, answerTo size2 s⟩], ans := answerTo size2 s,
      answers := s.answers.tail, pcSeq := .size2 }) ∧
    (s.pcSeq = .size2 → exec .capture s = .next { s with
      size2 := v.setWidth 8, hist := s.hist ++ [⟨size3, answerTo size3 s⟩], ans := answerTo size3 s,
      answers := s.answers.tail, pcSeq := .size3 }) ∧
    (s.pcSeq = .size3 →
      if len = 0 then
        exec .capture s = .next { s with
          capLen := len, capState := .idle, err := .emptyBuffer, errPrim := .none, errIdx := 0, cancelPending := false,
          busy := false, pcSeq := .idle }
      else if s.cfg.maxFifoSize ≤ len.toNat then
        exec .capture s = .next { s with
          capLen := len, capState := .idle, err := .bufferOverflow, errPrim := .none, errIdx := 0,
          cancelPending := false, busy := false, pcSeq := .idle }
      else
        exec .capture s = .next { s with
          capLen := len, capRemain := len, hist := s.hist ++ [⟨.csAssert, .ok 0⟩], pcSeq := .csAsserted })

/-- R198, R199, R204: the burst is opened once after chip-select is asserted; while bytes remain one `XFER` of the dummy byte
is issued; a byte outside a frame that completes no start marker only moves the window; when none remain chip-select is
deasserted, and the capture ends with INCOMPLETE_FRAME. -/
def Obligations.CaptureStreams : Prop :=
  ∀ (s : State),
    let pull : Prim := .xfer 0x00
    let goOn (u : State) : State :=
      if u.capRemain = 0 then { u with hist := u.hist ++ [⟨.csDeassert, .ok 0⟩], pcSeq := .exhausted }
      else { u with
        hist := u.hist ++ [⟨pull, answerTo pull u⟩], ans := answerTo pull u, answers := u.answers.tail, pcSeq := .pulled }
    (s.pcSeq = .csAsserted → exec .capture s = .next { s with
      csState := .asserted, hist := s.hist ++ [⟨.burstBegin, answerTo .burstBegin s⟩], ans := answerTo .burstBegin s,
      answers := s.answers.tail, pcSeq := .burstOpen }) ∧
    (∀ v, s.pcSeq = .burstOpen → s.ans = .ok v → exec .capture s = .next (goOn s)) ∧
    (∀ v, s.pcSeq = .pulled → s.ans = .ok v → s.inFrame = false →
      ¬(s.capCur = 0xFF ∧ v.setWidth 8 = (0xD8 : Byte)) →
      exec .capture s = .next (goOn { s with
        capRemain := s.capRemain - 1, capPrev := s.capCur, capCur := v.setWidth 8 })) ∧
    (s.pcSeq = .exhausted → exec .capture s = .next { s with
      csState := .deselected, capState := .idle, err := .incompleteFrame, errPrim := .none, errIdx := 0,
      cancelPending := false, busy := false, pcSeq := .idle })

/-- R199, R200, R202: the pulled byte that completes `0xFF,0xD8` outside a frame, with the buffer empty, opens the frame: ABUF
then begins with both marker bytes, the cursor is 2, every other byte of ABUF is as before, and the stream goes on. -/
def Obligations.CaptureStartsFrame : Prop :=
  ∀ (s : State) (v : Half), s.pcSeq = .pulled → s.ans = .ok v → s.inFrame = false → s.capCur = 0xFF →
    v.setWidth 8 = (0xD8 : Byte) → s.capCursor = 0 →
    ∃ t, exec .capture s = .next t ∧
      t.inFrame = true ∧ t.capCursor = 2 ∧ t.capRemain = s.capRemain - 1 ∧ t.capPrev = 0xFF ∧ t.capCur = 0xD8 ∧
      Memory.read (α := Byte) t.abuf 0 = some 0xFF ∧ Memory.read (α := Byte) t.abuf 1 = some 0xD8 ∧
      (∀ a, 2 ≤ a → Memory.read (α := Byte) t.abuf a = Memory.read (α := Byte) s.abuf a) ∧
      t.pcSeq = (if s.capRemain = 1 then .exhausted else .pulled) ∧
      (∃ e, t.hist = s.hist ++ [e] ∧ e.prim = if s.capRemain = 1 then .csDeassert else .xfer 0x00)

/-- R199, R202: a byte pulled inside a frame into a buffer that is not full is stored at the cursor, which advances by 1; every
other byte of ABUF is as before; unless it completes `0xFF,0xD9` the stream goes on, and if it does, all the bytes of the
buffer are written to the sink (R201). -/
def Obligations.CaptureStoresFrameByte : Prop :=
  ∀ (s : State) (v : Half), s.pcSeq = .pulled → s.ans = .ok v → s.inFrame = true →
    s.capCursor.toNat < s.cfg.bufCap →
    (∀ k < s.capCursor.toNat, (Memory.read (α := Byte) s.abuf k).isSome = true) →
    ∃ t, exec .capture s = .next t ∧
      t.inFrame = true ∧ t.capCursor.toNat = s.capCursor.toNat + 1 ∧ t.capRemain = s.capRemain - 1 ∧
      t.capPrev = s.capCur ∧ t.capCur = v.setWidth 8 ∧ t.cfg = s.cfg ∧ t.csState = s.csState ∧ t.capOut = s.capOut ∧
      Memory.read (α := Byte) t.abuf s.capCursor.toNat = some (v.setWidth 8) ∧
      (∀ a, a ≠ s.capCursor.toNat → Memory.read (α := Byte) t.abuf a = Memory.read (α := Byte) s.abuf a) ∧
      (if s.capCur = 0xFF ∧ v.setWidth 8 = (0xD9 : Byte) then
        ∃ bytes, Memory.readRange (α := Byte) t.abuf 0 (s.capCursor.toNat + 1) = .ok bytes ∧ t.pcSeq = .eofFlushed ∧
          t.hist = s.hist ++ [⟨.sinkWrite bytes, t.ans⟩]
      else if s.capRemain = 1 then
        t.pcSeq = .exhausted ∧ t.hist = s.hist ++ [⟨.csDeassert, .ok 0⟩]
      else
        t.pcSeq = .pulled ∧ t.hist = s.hist ++ [⟨.xfer 0x00, t.ans⟩])

/-- R85, R202, R203: a byte pulled inside a frame into a full buffer begins a rotation: deassert chip-select, write the whole
buffer to the sink, set the cursor to 0 and count the bytes, assert chip-select, re-issue the burst; and then the byte is
stored at index 0. The sink takes all the bytes if the write is answered `Ok` (R85), and a prefix of them if it is answered
`Err` (I4), which one the spec leaves open: that it is `Config.freeTaken` of the history, a constant without a body, is the
MODEL's choice (DESIGN CHOICE, unsafe, log 15). -/
def Obligations.CaptureRotates : Prop :=
  ∀ (s : State) (site : StoreSite),
    (∀ v, s.pcSeq = .pulled → s.ans = .ok v → s.inFrame = true → s.capCursor.toNat = s.cfg.bufCap →
      exec .capture s = .next { s with
        capRemain := s.capRemain - 1, capPrev := s.capCur, capCur := v.setWidth 8,
        hist := s.hist ++ [⟨.csDeassert, .ok 0⟩], pcSeq := .rotDeasserted .data }) ∧
    (∀ bytes, s.pcSeq = .rotDeasserted site → Memory.readRange (α := Byte) s.abuf 0 s.cfg.bufCap = .ok bytes →
      let call : Prim := .sinkWrite bytes
      exec .capture s = .next { s with
        csState := .deselected, hist := s.hist ++ [⟨call, answerTo call s⟩], ans := answerTo call s,
        answers := s.answers.tail, pcSeq := .rotFlushed site
        sink := s.sink ++ (match answerTo call s with
          | .ok _ => bytes
          | .err => bytes.take (Config.freeTaken s.hist)) }) ∧
    (∀ v, s.pcSeq = .rotFlushed site → s.ans = .ok v → exec .capture s = .next { s with
      capOut := s.capOut + BitVec.ofNat 32 s.cfg.bufCap, capCursor := 0, hist := s.hist ++ [⟨.csAssert, .ok 0⟩],
      pcSeq := .rotAsserted site }) ∧
    (s.pcSeq = .rotAsserted site → exec .capture s = .next { s with
      csState := .asserted, hist := s.hist ++ [⟨.burstBegin, answerTo .burstBegin s⟩], ans := answerTo .burstBegin s,
      answers := s.answers.tail, pcSeq := .rotBurst site }) ∧
    (∀ v, s.pcSeq = .rotBurst .data → s.ans = .ok v → s.capCursor = 0 →
      ∃ t e, exec .capture s = .next t ∧ t.capCursor = 1 ∧ Memory.read (α := Byte) t.abuf 0 = some s.capCur ∧
        (∀ a, a ≠ 0 → Memory.read (α := Byte) t.abuf a = Memory.read (α := Byte) s.abuf a) ∧
        t.hist = s.hist ++ [e] ∧
        (if s.capPrev = 0xFF ∧ s.capCur = 0xD9 then e.prim = .sinkWrite [0xD9] ∧ t.pcSeq = .eofFlushed
          else if s.capRemain = 0 then e.prim = .csDeassert ∧ t.pcSeq = .exhausted
          else e.prim = .xfer 0x00 ∧ t.pcSeq = .pulled))

/-- R201: after the end-of-frame flush is answered `Ok` its bytes are counted, IN_FRAME and the cursor are cleared and
chip-select is deasserted; then CAP_STATE is DONE, CS_STATE DESELECTED and ERR 0. -/
def Obligations.CaptureEndsFrame : Prop :=
  ∀ s : State,
    (∀ v, s.pcSeq = .eofFlushed → s.ans = .ok v → exec .capture s = .next { s with
      capOut := s.capOut + s.capCursor, inFrame := false, capCursor := 0, hist := s.hist ++ [⟨.csDeassert, .ok 0⟩],
      pcSeq := .eofDeasserted }) ∧
    (s.pcSeq = .eofDeasserted → exec .capture s = .next { s with
      csState := .deselected, capState := .done, err := .ok, cancelPending := false, busy := false, pcSeq := .idle })

/-- R192, R195, R197, R204, R205: every error exit of CAPTURE ends it at once, with CAP_STATE IDLE, IN_FRAME as it stood and no
further event. A primitive answered `Err` stands in ERR_INFO, with CS_STATE as it was for a bus error and UNKNOWN for a sink
error; CANCELLED and CAPTURE_TIMEOUT at the poll, EMPTY_BUFFER and BUFFER_OVERFLOW at the length, and CS_NOT_RELEASED leave
CS_STATE as it was and PRIM 0; INCOMPLETE_FRAME leaves DESELECTED and PRIM 0. -/
def Obligations.CaptureErrorExits : Prop :=
  ∀ (s : State) (prim : PrimCode) (site : StoreSite) (v : Half),
    let ended (e : ErrCode) (p : PrimCode) (u : State) : State := { u with
      capState := .idle, err := e, errPrim := p, errIdx := 0, cancelPending := false, busy := false, pcSeq := .idle }
    let len := fifoLength s.size1 s.size2 (v.setWidth 8)
    (s.ans = .err →
      (s.pcSeq, prim) ∈ [(.armClear, .tbWrite), (.armStart, .tbWrite), (.polled, .tbRead), (.size1, .tbRead),
        (.size2, .tbRead), (.size3, .tbRead), (.burstOpen, .burstBegin), (.pulled, .xfer), (.rotBurst site, .burstBegin)] →
      exec .capture s = .next (ended .busError prim s)) ∧
    (s.ans = .err → s.pcSeq ∈ [.rotFlushed site, .eofFlushed] →
      exec .capture s = .next (ended .sinkError .sinkWrite { s with csState := .unknown })) ∧
    (s.ans = .ok v → s.pcSeq = .armStart ∨ s.pcSeq = .polled ∧ v.setWidth 8 &&& s.cfg.maskCapDone = 0 →
      (s.cancelPending = true → exec .capture s = .next (ended .cancelled .none s)) ∧
      (s.cancelPending = false → s.pollCount.toNat = s.cfg.pollLimit →
        exec .capture s = .next (ended .captureTimeout .none s))) ∧
    (s.ans = .ok v → s.pcSeq = .size3 →
      (len = 0 → exec .capture s = .next (ended .emptyBuffer .none { s with capLen := len })) ∧
      (len ≠ 0 → s.cfg.maxFifoSize ≤ len.toNat →
        exec .capture s = .next (ended .bufferOverflow .none { s with capLen := len }))) ∧
    (s.pcSeq = .exhausted →
      exec .capture s = .next (ended .incompleteFrame .none { s with csState := .deselected })) ∧
    (s.pcSeq = .start → s.csState ≠ .deselected → s.capState = .idle →
      exec .capture s = .next (ended .csNotReleased .none s))

/-- R140, R191, R207: what CAPTURE and DESELECT never change: the command registers, OVR, RESULT, TBL_COUNT, the LOC and NMEA
registers, TMEM and LMEM; and DESELECT changes no capture register, ABUF or sink either. -/
def Obligations.CaptureAndDeselectFrame : Prop :=
  ∀ s t : State, (exec .capture s = .next t ∨ exec .deselect s = .next t) →
    t.cfg = s.cfg ∧ t.cmdLast = s.cmdLast ∧ t.curCmd = s.curCmd ∧ t.ovr = s.ovr ∧ t.result = s.result ∧
    t.resultWritten = s.resultWritten ∧ t.tblCount = s.tblCount ∧ t.nmeaOk = s.nmeaOk ∧ t.nmeaBad = s.nmeaBad ∧
    t.nmeaUnk = s.nmeaUnk ∧ t.loc = s.loc ∧ t.ti = s.ti ∧ t.rmwV = s.rmwV ∧ t.tmem = s.tmem ∧ t.lmem = s.lmem ∧
    t.inputs = s.inputs ∧ t.draws = s.draws ∧
    (exec .deselect s = .next t →
      t.capState = s.capState ∧ t.inFrame = s.inFrame ∧ t.capLen = s.capLen ∧ t.capRemain = s.capRemain ∧
      t.capCursor = s.capCursor ∧ t.capPrev = s.capPrev ∧ t.capCur = s.capCur ∧ t.capOut = s.capOut ∧
      t.pollCount = s.pollCount ∧ t.abuf = s.abuf ∧ t.sink = s.sink)

/-- R207: DESELECT issues its one event in every CS_STATE, then CS_STATE is DESELECTED and ERR 0; issued to an idle block it
changes nothing else but the command registers and ERR_INFO (so no CAP register and not CAP_STATE). -/
def Obligations.DeselectReleasesChipSelect : Prop :=
  ∀ s : State,
    (s.pcSeq = .start →
      exec .deselect s = .next { s with hist := s.hist ++ [⟨.csDeassert, .ok 0⟩], pcSeq := .deselected }) ∧
    (s.pcSeq = .deselected →
      exec .deselect s = .next { s with
        csState := .deselected, err := .ok, cancelPending := false, busy := false, pcSeq := .idle }) ∧
    (s.busy = false → s.inputs = [] →
      runSteps 2 (issued .deselect s) = .next { s with
        cmdLast := 0x11, curCmd := 0x11, hist := s.hist ++ [⟨.csDeassert, .ok 0⟩], csState := .deselected, err := .ok,
        errPrim := .none, errIdx := 0, cancelPending := false, pcSeq := .idle })

/-- R46, R201, R204, R206: a CAPTURE issued to an idle block with no host action scheduled, whatever the environment answers and
however many rotations occur. When it has ended with ERR 0, the bytes it wrote to the sink are exactly the bytes between
the first `0xFF,0xD8` and the following `0xFF,0xD9`, inclusive, of the bytes pulled; when it has ended with
INCOMPLETE_FRAME, the bytes pulled hold no such frame; CAP_OUT is the number of bytes the sink accepted. -/
def Obligations.CaptureDeliversFirstFrame : Prop :=
  ∀ (s t : State) (n : Nat), s.busy = false → s.inputs = [] → s.csState = .deselected →
    runSteps n (issued .capture s) = .next t → t.busy = false →
    ∃ h, t.hist = s.hist ++ h ∧
      t.capOut = BitVec.ofNat 32 (sunkBytes h).length ∧
      (t.err = .ok → firstFrame (pulledBytes h) = some (sunkBytes h) ∧ t.capState = .done ∧ t.csState = .deselected) ∧
      (t.err = .incompleteFrame → firstFrame (pulledBytes h) = none ∧ t.capState = .idle ∧ t.csState = .deselected ∧
        (pulledBytes h).length = t.capLen.toNat)

/-! ### Commands of the NMEA decoder -/

/-- R240, R255, R258: NMEA.LINE on a written range decodes the bytes before the first terminator, starts a fresh fold, and ends
with the outcome's code, RESULT, one count, and the update of an accepted line alone; it issues no event. -/
def Obligations.NmeaLineReportsOutcome : Prop :=
  ∀ (lbase llen : Half) (s : State) (buffer : List Byte),
    lbase.toNat + llen.toNat ≤ s.cfg.lmemBytes →
    Memory.readRange (α := Byte) s.lmem lbase.toNat llen.toNat = .ok buffer →
    let line := buffer.takeWhile (fun b => b != 0x0A && b != 0x0D)
    let ended (e : ErrCode) (r : Half) (u : Loc) (okCount bad unk : Half) : State := { s with
      loc := u, nmeaOk := okCount, nmeaBad := bad, nmeaUnk := unk, result := r, resultWritten := true, err := e,
      cancelPending := false, busy := false, pcSeq := .idle }
    exec (.nmeaLine lbase llen) s = .next (match decodeLine line with
      | .accepted .gga u => ended .ok 1 u 1 0 0
      | .accepted .rmc u => ended .ok 2 u 1 0 0
      | .unknown => ended .unknownSentence 0 {} 0 0 1
      | .delimiterMissing => ended .checksumDelimiterMissing 0 {} 0 1 0
      | .mismatch => ended .checksumMismatch 0 {} 0 1 0
      | .truncated => ended .truncatedSentence 0 {} 0 1 0)

/-- R48, R240, R255, R256, R257: NMEA.BUF on a written range ends with ERR 0, RESULT as it was and no event; the three counters
are the numbers of non-empty segments accepted, bad and unknown; the location registers are what applying the updates of
the accepted lines in order, from all absent, leaves, so a buffer without an accepted line leaves every one absent. -/
def Obligations.NmeaBufCountsLines : Prop :=
  ∀ (lbase llen : Half) (s : State) (buffer : List Byte),
    lbase.toNat + llen.toNat ≤ s.cfg.lmemBytes →
    Memory.readRange (α := Byte) s.lmem lbase.toNat llen.toNat = .ok buffer →
    let outcomes := ((segments buffer).filter (fun l => !l.isEmpty)).map decodeLine
    let accepted := outcomes.filter (fun o => match o with | .accepted _ _ => true | _ => false)
    let unknown := outcomes.filter (fun o => o == .unknown)
    exec (.nmeaBuf lbase llen) s = .next { s with
      loc := (foldBuffer buffer s).loc
      nmeaOk := BitVec.ofNat 16 accepted.length
      nmeaUnk := BitVec.ofNat 16 unknown.length
      nmeaBad := BitVec.ofNat 16 (outcomes.length - accepted.length - unknown.length)
      err := .ok, cancelPending := false, busy := false, pcSeq := .idle } ∧
    (foldBuffer buffer s).loc =
      outcomes.foldl (fun l o => match o with | .accepted _ u => u.apply l | _ => l) {} ∧
    (accepted = [] → (foldBuffer buffer s).loc = {}) ∧ outcomes.length ≤ 32768

/-- R255, R256, R257: the fold of NMEA.BUF takes the accepted lines in order. A buffer without a terminator leaves the update of
its one line, or every location register absent if it is empty or its line is not accepted; a buffer that is a first part,
a terminator, and a last line leaves what the first part leaves, with the last line's update applied to it. -/
def Obligations.NmeaBufFoldsInOrder : Prop :=
  ∀ (line : List Byte) (s : State), (∀ b ∈ line, isTerminator b = false) →
    (foldBuffer line s).loc =
      (if line = [] then {} else match decodeLine line with | .accepted _ u => u | _ => {}) ∧
    ∀ (first : List Byte) (t : Byte), isTerminator t = true →
      (foldBuffer (first ++ t :: line) s).loc =
        if line = [] then (foldBuffer first s).loc
        else
          match decodeLine line with
          | .accepted _ u => u.apply (foldBuffer first s).loc
          | _ => (foldBuffer first s).loc

/-- R240, R295: an NMEA command whose range passes the end of LMEM ends with RANGE_ERROR and `ERR_INFO = 0`, leaving the LOC
registers, the counters and RESULT as they were; one whose range holds an unwritten byte faults with that byte's index
(I6). -/
def Obligations.NmeaRangeIsChecked : Prop :=
  ∀ (lbase llen : Half) (s : State) (i : Instr), i ∈ [.nmeaLine lbase llen, .nmeaBuf lbase llen] →
    (s.cfg.lmemBytes < lbase.toNat + llen.toNat → exec i s = .next { s with
      err := .rangeError, errPrim := .none, errIdx := 0, cancelPending := false, busy := false, pcSeq := .idle }) ∧
    (∀ k, lbase.toNat + llen.toNat ≤ s.cfg.lmemBytes → lbase.toNat ≤ k → k < lbase.toNat + llen.toNat →
      Memory.read (α := Byte) s.lmem k = none →
      (∀ j, lbase.toNat ≤ j → j < k → (Memory.read (α := Byte) s.lmem j).isSome = true) →
      exec i s = .fault (.unwrittenLmem k))

/-- R260: flipping any single bit of a byte between the first byte and the `'*'` of a line whose checksum matches, if the byte
does not become `'*'`, gives a checksum mismatch. -/
def Obligations.SingleBitFlipIsDetected : Prop :=
  ∀ (before after : List Byte) (b : Byte) (bit : Fin 8), before ≠ [] →
    let line := before ++ b :: after
    let flipped := before ++ (b ^^^ (1#8 <<< bit.val)) :: after
    hasStar line = true → checksumMatches line = true → (∀ x ∈ before, x ≠ starByte) → b ≠ starByte →
    b ^^^ (1#8 <<< bit.val) ≠ starByte →
    decodeLine flipped = .mismatch

/-- R241: the segments of a buffer hold no terminator, are one more than its terminators, and with the terminators put back
between them in order give the buffer. -/
def Obligations.SegmentsRebuildBuffer : Prop :=
  ∀ buffer : List Byte,
    (∀ seg ∈ segments buffer, ∀ b ∈ seg, isTerminator b = false) ∧
    (segments buffer).length = (buffer.filter isTerminator).length + 1 ∧
    (∃ first rest, segments buffer = first :: rest ∧
      buffer = first ++ ((buffer.filter isTerminator).zip rest).flatMap (fun x => x.1 :: x.2))

/-- R259: applying an update twice is the same as applying it once; and a second NMEA.LINE over the same buffer leaves the
location registers, counters, RESULT and ERR as the first. -/
def Obligations.DecodingTwiceIsDecodingOnce : Prop :=
  (∀ u l : Loc, u.apply (u.apply l) = u.apply l) ∧
  ∀ (lbase llen : Half) (s t : State) (n : Nat), s.busy = false → s.inputs = [] →
    runSteps 1 (issued (.nmeaLine lbase llen) s) = .next t →
    runSteps (n + 1) (issued (.nmeaLine lbase llen) t) = .next t

/-- R249, R250: a coordinate field of value `100 d + m` with `d` a natural and `0 <= m < 100` has magnitude `d + m/60`, with no
range check on `m`. -/
def Obligations.CoordinateConversion : Prop :=
  ∀ (d : Nat) (m : Rat), 0 ≤ m → m < 100 → magnitude (100 * (d : Rat) + m) = (d : Rat) + m / 60

/-- R242 to R254: when a line is accepted and with what update, and the other outcomes in R254's order. An accepted line's
checksum matches, its prefix is the kind's, it has the fields the kind needs, and it updates exactly the kind's non-empty
fields. Conversely, a line without `'*'` is ChecksumDelimiterMissing. A line that is a body without `'*'`, a `'*'` and the
bytes after it, the body its fields joined by `','`, is ChecksumMismatch unless those bytes begin with the two hex digits of
the body's sum; else Unknown unless it begins with a known prefix; else TruncatedSentence with fewer fields than its kind
needs; else accepted with the update of its fields (values and signs as the grammars of R248 to R250 give them), or
TruncatedSentence if a used field is malformed, so that they give none. -/
def Obligations.AcceptedLineUpdates : Prop :=
  (∀ (line : List Byte) (kind : Kind) (u : Loc), decodeLine line = .accepted kind u →
    checksumMatches line = true ∧ fieldsNeeded kind ≤ (fields line).length ∧
    (kind = .gga → line.take 6 = ggaTag ∧ u.spd = none ∧ u.crs = none ∧
      (u.lat = none ↔ fieldAt (fields line) 2 = []) ∧ (u.lon = none ↔ fieldAt (fields line) 4 = []) ∧
      (u.fixq = none ↔ fieldAt (fields line) 6 = []) ∧ (u.nsat = none ↔ fieldAt (fields line) 7 = []) ∧
      (u.alt = none ↔ fieldAt (fields line) 9 = [])) ∧
    (kind = .rmc → line.take 6 = rmcTag ∧ u.lat = none ∧ u.lon = none ∧ u.alt = none ∧ u.fixq = none ∧ u.nsat = none ∧
      (u.spd = none ↔ fieldAt (fields line) 7 = []) ∧ (u.crs = none ↔ fieldAt (fields line) 8 = []))) ∧
  (∀ line : List Byte, starByte ∉ line → decodeLine line = .delimiterMissing) ∧
  ∀ (body after : List Byte) (fs : List (List Byte)),
    starByte ∉ body → body = [0x2C].intercalate fs → fs ≠ [] → (∀ f ∈ fs, (0x2C : Byte) ∉ f) →
    let line := body ++ starByte :: after
    (¬SendsChecksum after (bodySum body).toNat → decodeLine line = .mismatch) ∧
    (SendsChecksum after (bodySum body).toNat →
      (¬ggaTag <+: line → ¬rmcTag <+: line → decodeLine line = .unknown) ∧
      ∀ kind : Kind, tagOf kind <+: line →
        let need := match kind with | .gga => 10 | .rmc => 9
        (fs.length < need → decodeLine line = .truncated) ∧
        (need ≤ fs.length →
          (∀ u, UpdateOf kind fs u → decodeLine line = .accepted kind u) ∧
          ((∀ u, ¬UpdateOf kind fs u) → decodeLine line = .truncated)))

/-! ### Invariants and whole-machine rules -/

/-- R321, R322: the state after reset meets the invariants of the sequencer, the memories and the buffer. The disciplines of
the burst and of the delay hold of it because its event history is empty, which is the MODEL's choice for power-on (DESIGN
CHOICE, unsafe, log 16): R321 and R322 do not give the history. -/
def Obligations.ResetMeetsInvariants : Prop :=
  SequencerInv State.reset ∧ MemoryInv State.reset ∧ BufferInv State.reset ∧ BurstInv State.reset ∧ DelayInv State.reset

/-- R34, R36, R50, R190: every step keeps the sequencer's invariant, and under it no step is refused. -/
def Obligations.SequencerInvariantKept : Prop :=
  ∀ s : State, SequencerInv s →
    (∀ t, step s = .next t → SequencerInv t) ∧ (∀ r, step s ≠ .refused r)

/-- R81, R83, R84, R322: every step keeps every memory in canonical form and inside its space. -/
def Obligations.MemoryInvariantKept : Prop :=
  ∀ s t : State, MemoryInv s → step s = .next t → MemoryInv t

/-- R84, R202, R203, R322: every step keeps the accumulation buffer's invariant, and under it no step writes outside ABUF or
reads an ABUF byte that was not written. -/
def Obligations.BufferInvariantKept : Prop :=
  ∀ s : State, BufferInv s →
    (∀ t, step s = .next t → BufferInv t) ∧
    (∀ k, step s ≠ .fault (.outsideAbuf k) ∧ step s ≠ .fault (.unwrittenAbuf k))

/-- R54, R198, R203, R325: every step keeps the burst discipline: in the history every `XFER` has a `BURST_BEGIN` answered `Ok`
after the last `CS_DEASSERT` and `CS_ASSERT` before it. -/
def Obligations.BurstDisciplineKept : Prop :=
  ∀ s t : State, BurstInv s → step s = .next t → BurstInv t

/-- R142, R324: every step but a host reset keeps the delay discipline: every 16-bit-address write in the history is followed
at once by its delay (a reset, which abandons a command at once, may come between: R320). -/
def Obligations.DelayDisciplineKept : Prop :=
  ∀ s t : State, DelayInv s → resetNext s = false → step s = .next t → DelayInv t

/-- R331: every command, issued to an idle block with no host action scheduled and whatever the environment answers, ends
within the bound of R331 on its primitives, or stops with the fault for unwritten TMEM or LMEM. -/
def Obligations.CommandsEndWithinBound : Prop :=
  ∀ (i : Instr) (s : State), i.wellFormed = true → s.busy = false → s.inputs = [] →
    (∃ t, runSteps (mostPrimitives s.cfg (2 ^ 23 - 1) i + 1) (issued i s) = .next t ∧ t.busy = false ∧
      t.hist.length ≤ s.hist.length + mostPrimitives s.cfg t.capLen.toNat i) ∨
    (∃ k, runSteps (mostPrimitives s.cfg (2 ^ 23 - 1) i + 1) (issued i s) = .fault (.unwrittenTmem k)) ∨
    (∃ k, runSteps (mostPrimitives s.cfg (2 ^ 23 - 1) i + 1) (issued i s) = .fault (.unwrittenLmem k))
end

