-- ==== Sys2Proof/Laws/Encoding.lean ====
section
/-! SUPPORT. The fields of an assembled descriptor (R111): each reads back as it was given, and the decoder sees them. -/

namespace Sys2Proof.Laws

/-- The fields of R111 as numbers: each stands at its place. -/
theorem assemble_toNat (opc : Byte) (port : BitVec 3) (bit : BitVec 4) (addr val : Half) :
    (assemble opc port bit addr val).toNat =
      opc.toNat + 2 ^ 8 * port.toNat + 2 ^ 12 * bit.toNat + 2 ^ 16 * addr.toNat + 2 ^ 32 * val.toNat := by
  have h1 := opc.isLt
  have h2 := port.isLt
  have h3 := bit.isLt
  have h4 := addr.isLt
  have h5 := val.isLt
  simp only [assemble, BitVec.toNat_append]
  rw [← Nat.shiftLeft_add_eq_or_of_lt h1, ← Nat.shiftLeft_add_eq_or_of_lt h2,
    ← Nat.shiftLeft_add_eq_or_of_lt (by simp), ← Nat.shiftLeft_add_eq_or_of_lt h3,
    ← Nat.shiftLeft_add_eq_or_of_lt h4, ← Nat.shiftLeft_add_eq_or_of_lt h5]
  simp only [Nat.shiftLeft_eq, BitVec.toNat_ofNat]
  omega

@[simp] theorem opcField_assemble (opc : Byte) (port : BitVec 3) (bit : BitVec 4) (addr val : Half) :
    opcField (assemble opc port bit addr val) = opc := by
  apply BitVec.eq_of_toNat_eq
  simp only [opcField, BitVec.extractLsb'_toNat, assemble_toNat, Nat.shiftRight_eq_div_pow]
  have := opc.isLt; have := port.isLt; have := bit.isLt; have := addr.isLt; have := val.isLt
  omega

@[simp] theorem portField_assemble (opc : Byte) (port : BitVec 3) (bit : BitVec 4) (addr val : Half) :
    portField (assemble opc port bit addr val) = port := by
  apply BitVec.eq_of_toNat_eq
  simp only [portField, BitVec.extractLsb'_toNat, assemble_toNat, Nat.shiftRight_eq_div_pow]
  have := opc.isLt; have := port.isLt; have := bit.isLt; have := addr.isLt; have := val.isLt
  omega

@[simp] theorem bitField_assemble (opc : Byte) (port : BitVec 3) (bit : BitVec 4) (addr val : Half) :
    bitField (assemble opc port bit addr val) = bit := by
  apply BitVec.eq_of_toNat_eq
  simp only [bitField, BitVec.extractLsb'_toNat, assemble_toNat, Nat.shiftRight_eq_div_pow]
  have := opc.isLt; have := port.isLt; have := bit.isLt; have := addr.isLt; have := val.isLt
  omega

@[simp] theorem addrField_assemble (opc : Byte) (port : BitVec 3) (bit : BitVec 4) (addr val : Half) :
    addrField (assemble opc port bit addr val) = addr := by
  apply BitVec.eq_of_toNat_eq
  simp only [addrField, BitVec.extractLsb'_toNat, assemble_toNat, Nat.shiftRight_eq_div_pow]
  have := opc.isLt; have := port.isLt; have := bit.isLt; have := addr.isLt; have := val.isLt
  omega

@[simp] theorem valField_assemble (opc : Byte) (port : BitVec 3) (bit : BitVec 4) (addr val : Half) :
    valField (assemble opc port bit addr val) = val := by
  apply BitVec.eq_of_toNat_eq
  simp only [valField, BitVec.extractLsb'_toNat, assemble_toNat, Nat.shiftRight_eq_div_pow]
  have := opc.isLt; have := port.isLt; have := bit.isLt; have := addr.isLt; have := val.isLt
  omega

@[simp] theorem rsv0Field_assemble (opc : Byte) (port : BitVec 3) (bit : BitVec 4) (addr val : Half) :
    rsv0Field (assemble opc port bit addr val) = 0 := by
  apply BitVec.eq_of_toNat_eq
  simp only [rsv0Field, BitVec.extractLsb'_toNat, assemble_toNat, Nat.shiftRight_eq_div_pow]
  have := opc.isLt; have := port.isLt; have := bit.isLt; have := addr.isLt; have := val.isLt
  show _ = 0
  omega

@[simp] theorem rsv1Field_assemble (opc : Byte) (port : BitVec 3) (bit : BitVec 4) (addr val : Half) :
    rsv1Field (assemble opc port bit addr val) = 0 := by
  apply BitVec.eq_of_toNat_eq
  simp only [rsv1Field, BitVec.extractLsb'_toNat, assemble_toNat, Nat.shiftRight_eq_div_pow]
  have := opc.isLt; have := port.isLt; have := bit.isLt; have := addr.isLt; have := val.isLt
  show _ = 0
  omega

/-- The decoder reads an assembled descriptor by its fields. -/
theorem decode_assemble (opc : Byte) (port : BitVec 3) (bit : BitVec 4) (addr val : Half) :
    decode (assemble opc port bit addr val) = decodeFields opc port bit addr val := by
  simp [decode]

end Sys2Proof.Laws
end

