-- ==== Sys2Proof/Laws/Memory.lean ====
section
/-! SUPPORT. The laws of the memories: read after write, the canonical form that every write keeps, and what a range read
answers. -/

namespace Sys2Proof.Laws

open Sys2Proof.Machine

@[simp] theorem read_nil {α : Type} (a : Nat) : Memory.read ([] : Memory α) a = none := rfl

/-- Reading after a write: the written address has the value, every other address is as before. -/
theorem read_write {α : Type} (m : Memory α) (a b : Nat) (v : α) :
    Memory.read (Memory.write m a v) b = if b = a then some v else Memory.read m b := by
  induction m with
  | nil => simp [Memory.write, Memory.read, eq_comm]
  | cons x m ih =>
    obtain ⟨k, w⟩ := x
    simp only [Memory.write]
    split_ifs <;> simp only [Memory.read, ih] <;> split_ifs <;> first | rfl | omega

@[simp] theorem read_write_same {α : Type} (m : Memory α) (a : Nat) (v : α) :
    Memory.read (Memory.write m a v) a = some v := by simp [read_write]

theorem read_write_other {α : Type} (m : Memory α) {a b : Nat} (v : α) (h : b ≠ a) :
    Memory.read (Memory.write m a v) b = Memory.read m b := by simp [read_write, h]

/-- The entries after a write are the written one and entries that stood before. -/
theorem mem_write {α : Type} {m : Memory α} {a : Nat} {v : α} {x : Nat × α} (h : x ∈ Memory.write m a v) :
    x = (a, v) ∨ x ∈ m := by
  induction m with
  | nil => simpa [Memory.write] using h
  | cons y m ih =>
    obtain ⟨k, w⟩ := y
    simp only [Memory.write] at h
    split_ifs at h <;> simp_all <;> tauto

/-- A write keeps the canonical form. -/
theorem wf_write {α : Type} (m : Memory α) (a : Nat) (v : α) (h : Memory.wf m) : Memory.wf (Memory.write m a v) := by
  induction m with
  | nil => simp [Memory.write, Memory.wf]
  | cons y m ih =>
    obtain ⟨k, w⟩ := y
    simp only [Memory.wf, List.map_cons, List.pairwise_cons] at h
    simp only [Memory.write]
    split_ifs with h1 h2
    · simp only [Memory.wf, List.map_cons, List.pairwise_cons, List.mem_cons]
      exact ⟨by rintro b (rfl | hb); exacts [h1, h1.trans (h.1 b hb)], h.1, h.2⟩
    · subst h2
      exact List.pairwise_cons.2 ⟨h.1, h.2⟩
    · refine List.pairwise_cons.2 ⟨?_, ih h.2⟩
      intro b hb
      obtain ⟨x, hx, rfl⟩ := List.mem_map.1 hb
      rcases mem_write hx with rfl | hx
      · show k < a
        omega
      · exact h.1 _ (List.mem_map_of_mem hx)

/-- A write inside a space keeps the memory inside it. -/
theorem bound_write {α : Type} {m : Memory α} {n a : Nat} (v : α) (h : ∀ x ∈ m, x.1 < n) (ha : a < n) :
    ∀ x ∈ Memory.write m a v, x.1 < n := by
  intro x hx
  rcases mem_write hx with rfl | hx
  exacts [ha, h x hx]

/-- In canonical form an unlisted address and only an unlisted address reads as unwritten. -/
theorem read_eq_none {α : Type} (m : Memory α) (a : Nat) : Memory.read m a = none ↔ ∀ x ∈ m, x.1 ≠ a := by
  induction m with
  | nil => simp [Memory.read]
  | cons y m ih =>
    obtain ⟨k, w⟩ := y
    by_cases h : k = a <;> simp [Memory.read, h, ih]

/-- A range of written units reads whole, in order. -/
theorem readRange_ok {α : Type} (m : Memory α) (base n : Nat)
    (h : ∀ k < n, (Memory.read m (base + k)).isSome = true) :
    ∃ vs, Memory.readRange m base n = .ok vs ∧ vs.length = n ∧
      ∀ k < n, vs[k]? = Memory.read m (base + k) := by
  induction n generalizing base with
  | zero => exact ⟨[], rfl, rfl, by simp⟩
  | succ n ih =>
    obtain ⟨v, hv⟩ := Option.isSome_iff_exists.1 (by simpa using h 0 (by omega))
    obtain ⟨vs, hvs, hl, hk⟩ := ih (base + 1) fun k hk => by
      have := h (k + 1) (by omega)
      rwa [Nat.add_assoc, Nat.add_comm 1 k]
    refine ⟨v :: vs, by simp [Memory.readRange, hv, hvs], by simp [hl], ?_⟩
    rintro (_ | k) hkn
    · simp [hv]
    · simpa [Nat.add_assoc, Nat.add_comm 1 k] using hk k (by omega)

/-- A range read that answers has read every unit, in order. -/
theorem readRange_inv {α : Type} {m : Memory α} {base n : Nat} {vs : List α} (h : Memory.readRange m base n = .ok vs) :
    vs.length = n ∧ ∀ k < n, vs[k]? = Memory.read m (base + k) := by
  induction n generalizing base vs with
  | zero => simp_all [Memory.readRange]
  | succ n ih =>
    simp only [Memory.readRange] at h
    split at h
    · cases h
    · rename_i v hv
      split at h
      · rename_i ws hws
        cases h
        obtain ⟨hl, hk⟩ := ih hws
        refine ⟨by simp [hl], ?_⟩
        rintro (_ | k) hkn
        · simp [hv]
        · simpa [Nat.add_assoc, Nat.add_comm 1 k] using hk k (by omega)
      · cases h

/-- A range read that stops names its first unwritten index. -/
theorem readRange_error {α : Type} (m : Memory α) (base n k : Nat) (hb : base ≤ k) (hk : k < base + n)
    (h : Memory.read m k = none) (hj : ∀ j, base ≤ j → j < k → (Memory.read m j).isSome = true) :
    Memory.readRange m base n = .error k := by
  induction n generalizing base with
  | zero => omega
  | succ n ih =>
    by_cases hbk : base = k
    · subst hbk; simp [Memory.readRange, h]
    · obtain ⟨v, hv⟩ := Option.isSome_iff_exists.1 (hj base le_rfl (by omega))
      simp [Memory.readRange, hv, ih (base + 1) (by omega) (by omega) fun j h1 h2 => hj j (by omega) h2]

end Sys2Proof.Laws
end

