-- ==== Sys2Proof/Laws/State.lean ====
section
/-! SUPPORT. One lemma per field for each shared update of the state, true by definition, so that no proof unfolds a record
update. -/

namespace Sys2Proof.Laws

open Sys2Proof.Machine

/-! ### ask -/

@[simp] theorem ask_cfg (p : Prim) (k : Point) (s : State) : (ask p k s).cfg = s.cfg := rfl
@[simp] theorem ask_cmdLast (p : Prim) (k : Point) (s : State) : (ask p k s).cmdLast = s.cmdLast := rfl
@[simp] theorem ask_busy (p : Prim) (k : Point) (s : State) : (ask p k s).busy = s.busy := rfl
@[simp] theorem ask_ovr (p : Prim) (k : Point) (s : State) : (ask p k s).ovr = s.ovr := rfl
@[simp] theorem ask_cancelPending (p : Prim) (k : Point) (s : State) : (ask p k s).cancelPending = s.cancelPending := rfl
@[simp] theorem ask_err (p : Prim) (k : Point) (s : State) : (ask p k s).err = s.err := rfl
@[simp] theorem ask_capState (p : Prim) (k : Point) (s : State) : (ask p k s).capState = s.capState := rfl
@[simp] theorem ask_inFrame (p : Prim) (k : Point) (s : State) : (ask p k s).inFrame = s.inFrame := rfl
@[simp] theorem ask_csState (p : Prim) (k : Point) (s : State) : (ask p k s).csState = s.csState := rfl
@[simp] theorem ask_result (p : Prim) (k : Point) (s : State) : (ask p k s).result = s.result := rfl
@[simp] theorem ask_resultWritten (p : Prim) (k : Point) (s : State) : (ask p k s).resultWritten = s.resultWritten := rfl
@[simp] theorem ask_errPrim (p : Prim) (k : Point) (s : State) : (ask p k s).errPrim = s.errPrim := rfl
@[simp] theorem ask_errIdx (p : Prim) (k : Point) (s : State) : (ask p k s).errIdx = s.errIdx := rfl
@[simp] theorem ask_tblCount (p : Prim) (k : Point) (s : State) : (ask p k s).tblCount = s.tblCount := rfl
@[simp] theorem ask_capLen (p : Prim) (k : Point) (s : State) : (ask p k s).capLen = s.capLen := rfl
@[simp] theorem ask_capRemain (p : Prim) (k : Point) (s : State) : (ask p k s).capRemain = s.capRemain := rfl
@[simp] theorem ask_capCursor (p : Prim) (k : Point) (s : State) : (ask p k s).capCursor = s.capCursor := rfl
@[simp] theorem ask_capPrev (p : Prim) (k : Point) (s : State) : (ask p k s).capPrev = s.capPrev := rfl
@[simp] theorem ask_capCur (p : Prim) (k : Point) (s : State) : (ask p k s).capCur = s.capCur := rfl
@[simp] theorem ask_capOut (p : Prim) (k : Point) (s : State) : (ask p k s).capOut = s.capOut := rfl
@[simp] theorem ask_pollCount (p : Prim) (k : Point) (s : State) : (ask p k s).pollCount = s.pollCount := rfl
@[simp] theorem ask_nmeaOk (p : Prim) (k : Point) (s : State) : (ask p k s).nmeaOk = s.nmeaOk := rfl
@[simp] theorem ask_nmeaBad (p : Prim) (k : Point) (s : State) : (ask p k s).nmeaBad = s.nmeaBad := rfl
@[simp] theorem ask_nmeaUnk (p : Prim) (k : Point) (s : State) : (ask p k s).nmeaUnk = s.nmeaUnk := rfl
@[simp] theorem ask_loc (p : Prim) (k : Point) (s : State) : (ask p k s).loc = s.loc := rfl
@[simp] theorem ask_curCmd (p : Prim) (k : Point) (s : State) : (ask p k s).curCmd = s.curCmd := rfl
@[simp] theorem ask_pcSeq (p : Prim) (k : Point) (s : State) : (ask p k s).pcSeq = k := rfl
@[simp] theorem ask_ti (p : Prim) (k : Point) (s : State) : (ask p k s).ti = s.ti := rfl
@[simp] theorem ask_rmwV (p : Prim) (k : Point) (s : State) : (ask p k s).rmwV = s.rmwV := rfl
@[simp] theorem ask_tmem (p : Prim) (k : Point) (s : State) : (ask p k s).tmem = s.tmem := rfl
@[simp] theorem ask_lmem (p : Prim) (k : Point) (s : State) : (ask p k s).lmem = s.lmem := rfl
@[simp] theorem ask_abuf (p : Prim) (k : Point) (s : State) : (ask p k s).abuf = s.abuf := rfl
@[simp] theorem ask_hist (p : Prim) (k : Point) (s : State) : (ask p k s).hist = s.hist ++ [⟨p, answerTo p s⟩] := rfl
@[simp] theorem ask_sink (p : Prim) (k : Point) (s : State) : (ask p k s).sink = s.sink := rfl
@[simp] theorem ask_ans (p : Prim) (k : Point) (s : State) : (ask p k s).ans = answerTo p s := rfl
@[simp] theorem ask_size1 (p : Prim) (k : Point) (s : State) : (ask p k s).size1 = s.size1 := rfl
@[simp] theorem ask_size2 (p : Prim) (k : Point) (s : State) : (ask p k s).size2 = s.size2 := rfl
@[simp] theorem ask_inputs (p : Prim) (k : Point) (s : State) : (ask p k s).inputs = s.inputs := rfl
@[simp] theorem ask_answers (p : Prim) (k : Point) (s : State) : (ask p k s).answers = s.answers.tail := rfl
@[simp] theorem ask_draws (p : Prim) (k : Point) (s : State) : (ask p k s).draws = s.draws := rfl
@[simp] theorem ask_hostData (p : Prim) (k : Point) (s : State) : (ask p k s).hostData = s.hostData := rfl

/-! ### askSink -/

@[simp] theorem askSink_cfg (bytes : List Byte) (k : Point) (s : State) : (askSink bytes k s).cfg = s.cfg := rfl
@[simp] theorem askSink_cmdLast (bytes : List Byte) (k : Point) (s : State) : (askSink bytes k s).cmdLast = s.cmdLast := rfl
@[simp] theorem askSink_busy (bytes : List Byte) (k : Point) (s : State) : (askSink bytes k s).busy = s.busy := rfl
@[simp] theorem askSink_ovr (bytes : List Byte) (k : Point) (s : State) : (askSink bytes k s).ovr = s.ovr := rfl
@[simp] theorem askSink_cancelPending (bytes : List Byte) (k : Point) (s : State) : (askSink bytes k s).cancelPending = s.cancelPending := rfl
@[simp] theorem askSink_err (bytes : List Byte) (k : Point) (s : State) : (askSink bytes k s).err = s.err := rfl
@[simp] theorem askSink_capState (bytes : List Byte) (k : Point) (s : State) : (askSink bytes k s).capState = s.capState := rfl
@[simp] theorem askSink_inFrame (bytes : List Byte) (k : Point) (s : State) : (askSink bytes k s).inFrame = s.inFrame := rfl
@[simp] theorem askSink_csState (bytes : List Byte) (k : Point) (s : State) : (askSink bytes k s).csState = s.csState := rfl
@[simp] theorem askSink_result (bytes : List Byte) (k : Point) (s : State) : (askSink bytes k s).result = s.result := rfl
@[simp] theorem askSink_resultWritten (bytes : List Byte) (k : Point) (s : State) : (askSink bytes k s).resultWritten = s.resultWritten := rfl
@[simp] theorem askSink_errPrim (bytes : List Byte) (k : Point) (s : State) : (askSink bytes k s).errPrim = s.errPrim := rfl
@[simp] theorem askSink_errIdx (bytes : List Byte) (k : Point) (s : State) : (askSink bytes k s).errIdx = s.errIdx := rfl
@[simp] theorem askSink_tblCount (bytes : List Byte) (k : Point) (s : State) : (askSink bytes k s).tblCount = s.tblCount := rfl
@[simp] theorem askSink_capLen (bytes : List Byte) (k : Point) (s : State) : (askSink bytes k s).capLen = s.capLen := rfl
@[simp] theorem askSink_capRemain (bytes : List Byte) (k : Point) (s : State) : (askSink bytes k s).capRemain = s.capRemain := rfl
@[simp] theorem askSink_capCursor (bytes : List Byte) (k : Point) (s : State) : (askSink bytes k s).capCursor = s.capCursor := rfl
@[simp] theorem askSink_capPrev (bytes : List Byte) (k : Point) (s : State) : (askSink bytes k s).capPrev = s.capPrev := rfl
@[simp] theorem askSink_capCur (bytes : List Byte) (k : Point) (s : State) : (askSink bytes k s).capCur = s.capCur := rfl
@[simp] theorem askSink_capOut (bytes : List Byte) (k : Point) (s : State) : (askSink bytes k s).capOut = s.capOut := rfl
@[simp] theorem askSink_pollCount (bytes : List Byte) (k : Point) (s : State) : (askSink bytes k s).pollCount = s.pollCount := rfl
@[simp] theorem askSink_nmeaOk (bytes : List Byte) (k : Point) (s : State) : (askSink bytes k s).nmeaOk = s.nmeaOk := rfl
@[simp] theorem askSink_nmeaBad (bytes : List Byte) (k : Point) (s : State) : (askSink bytes k s).nmeaBad = s.nmeaBad := rfl
@[simp] theorem askSink_nmeaUnk (bytes : List Byte) (k : Point) (s : State) : (askSink bytes k s).nmeaUnk = s.nmeaUnk := rfl
@[simp] theorem askSink_loc (bytes : List Byte) (k : Point) (s : State) : (askSink bytes k s).loc = s.loc := rfl
@[simp] theorem askSink_curCmd (bytes : List Byte) (k : Point) (s : State) : (askSink bytes k s).curCmd = s.curCmd := rfl
@[simp] theorem askSink_pcSeq (bytes : List Byte) (k : Point) (s : State) : (askSink bytes k s).pcSeq = k := rfl
@[simp] theorem askSink_ti (bytes : List Byte) (k : Point) (s : State) : (askSink bytes k s).ti = s.ti := rfl
@[simp] theorem askSink_rmwV (bytes : List Byte) (k : Point) (s : State) : (askSink bytes k s).rmwV = s.rmwV := rfl
@[simp] theorem askSink_tmem (bytes : List Byte) (k : Point) (s : State) : (askSink bytes k s).tmem = s.tmem := rfl
@[simp] theorem askSink_lmem (bytes : List Byte) (k : Point) (s : State) : (askSink bytes k s).lmem = s.lmem := rfl
@[simp] theorem askSink_abuf (bytes : List Byte) (k : Point) (s : State) : (askSink bytes k s).abuf = s.abuf := rfl
@[simp] theorem askSink_hist (bytes : List Byte) (k : Point) (s : State) : (askSink bytes k s).hist = s.hist ++ [⟨.sinkWrite bytes, answerTo (.sinkWrite bytes) s⟩] := rfl
@[simp] theorem askSink_sink (bytes : List Byte) (k : Point) (s : State) : (askSink bytes k s).sink = s.sink ++ sinkTakes bytes (answerTo (.sinkWrite bytes) s) s := rfl
@[simp] theorem askSink_ans (bytes : List Byte) (k : Point) (s : State) : (askSink bytes k s).ans = answerTo (.sinkWrite bytes) s := rfl
@[simp] theorem askSink_size1 (bytes : List Byte) (k : Point) (s : State) : (askSink bytes k s).size1 = s.size1 := rfl
@[simp] theorem askSink_size2 (bytes : List Byte) (k : Point) (s : State) : (askSink bytes k s).size2 = s.size2 := rfl
@[simp] theorem askSink_inputs (bytes : List Byte) (k : Point) (s : State) : (askSink bytes k s).inputs = s.inputs := rfl
@[simp] theorem askSink_answers (bytes : List Byte) (k : Point) (s : State) : (askSink bytes k s).answers = s.answers.tail := rfl
@[simp] theorem askSink_draws (bytes : List Byte) (k : Point) (s : State) : (askSink bytes k s).draws = s.draws := rfl
@[simp] theorem askSink_hostData (bytes : List Byte) (k : Point) (s : State) : (askSink bytes k s).hostData = s.hostData := rfl

/-! ### signal -/

@[simp] theorem signal_cfg (p : Prim) (k : Point) (s : State) : (signal p k s).cfg = s.cfg := rfl
@[simp] theorem signal_cmdLast (p : Prim) (k : Point) (s : State) : (signal p k s).cmdLast = s.cmdLast := rfl
@[simp] theorem signal_busy (p : Prim) (k : Point) (s : State) : (signal p k s).busy = s.busy := rfl
@[simp] theorem signal_ovr (p : Prim) (k : Point) (s : State) : (signal p k s).ovr = s.ovr := rfl
@[simp] theorem signal_cancelPending (p : Prim) (k : Point) (s : State) : (signal p k s).cancelPending = s.cancelPending := rfl
@[simp] theorem signal_err (p : Prim) (k : Point) (s : State) : (signal p k s).err = s.err := rfl
@[simp] theorem signal_capState (p : Prim) (k : Point) (s : State) : (signal p k s).capState = s.capState := rfl
@[simp] theorem signal_inFrame (p : Prim) (k : Point) (s : State) : (signal p k s).inFrame = s.inFrame := rfl
@[simp] theorem signal_csState (p : Prim) (k : Point) (s : State) : (signal p k s).csState = s.csState := rfl
@[simp] theorem signal_result (p : Prim) (k : Point) (s : State) : (signal p k s).result = s.result := rfl
@[simp] theorem signal_resultWritten (p : Prim) (k : Point) (s : State) : (signal p k s).resultWritten = s.resultWritten := rfl
@[simp] theorem signal_errPrim (p : Prim) (k : Point) (s : State) : (signal p k s).errPrim = s.errPrim := rfl
@[simp] theorem signal_errIdx (p : Prim) (k : Point) (s : State) : (signal p k s).errIdx = s.errIdx := rfl
@[simp] theorem signal_tblCount (p : Prim) (k : Point) (s : State) : (signal p k s).tblCount = s.tblCount := rfl
@[simp] theorem signal_capLen (p : Prim) (k : Point) (s : State) : (signal p k s).capLen = s.capLen := rfl
@[simp] theorem signal_capRemain (p : Prim) (k : Point) (s : State) : (signal p k s).capRemain = s.capRemain := rfl
@[simp] theorem signal_capCursor (p : Prim) (k : Point) (s : State) : (signal p k s).capCursor = s.capCursor := rfl
@[simp] theorem signal_capPrev (p : Prim) (k : Point) (s : State) : (signal p k s).capPrev = s.capPrev := rfl
@[simp] theorem signal_capCur (p : Prim) (k : Point) (s : State) : (signal p k s).capCur = s.capCur := rfl
@[simp] theorem signal_capOut (p : Prim) (k : Point) (s : State) : (signal p k s).capOut = s.capOut := rfl
@[simp] theorem signal_pollCount (p : Prim) (k : Point) (s : State) : (signal p k s).pollCount = s.pollCount := rfl
@[simp] theorem signal_nmeaOk (p : Prim) (k : Point) (s : State) : (signal p k s).nmeaOk = s.nmeaOk := rfl
@[simp] theorem signal_nmeaBad (p : Prim) (k : Point) (s : State) : (signal p k s).nmeaBad = s.nmeaBad := rfl
@[simp] theorem signal_nmeaUnk (p : Prim) (k : Point) (s : State) : (signal p k s).nmeaUnk = s.nmeaUnk := rfl
@[simp] theorem signal_loc (p : Prim) (k : Point) (s : State) : (signal p k s).loc = s.loc := rfl
@[simp] theorem signal_curCmd (p : Prim) (k : Point) (s : State) : (signal p k s).curCmd = s.curCmd := rfl
@[simp] theorem signal_pcSeq (p : Prim) (k : Point) (s : State) : (signal p k s).pcSeq = k := rfl
@[simp] theorem signal_ti (p : Prim) (k : Point) (s : State) : (signal p k s).ti = s.ti := rfl
@[simp] theorem signal_rmwV (p : Prim) (k : Point) (s : State) : (signal p k s).rmwV = s.rmwV := rfl
@[simp] theorem signal_tmem (p : Prim) (k : Point) (s : State) : (signal p k s).tmem = s.tmem := rfl
@[simp] theorem signal_lmem (p : Prim) (k : Point) (s : State) : (signal p k s).lmem = s.lmem := rfl
@[simp] theorem signal_abuf (p : Prim) (k : Point) (s : State) : (signal p k s).abuf = s.abuf := rfl
@[simp] theorem signal_hist (p : Prim) (k : Point) (s : State) : (signal p k s).hist = s.hist ++ [⟨p, .ok 0⟩] := rfl
@[simp] theorem signal_sink (p : Prim) (k : Point) (s : State) : (signal p k s).sink = s.sink := rfl
@[simp] theorem signal_ans (p : Prim) (k : Point) (s : State) : (signal p k s).ans = s.ans := rfl
@[simp] theorem signal_size1 (p : Prim) (k : Point) (s : State) : (signal p k s).size1 = s.size1 := rfl
@[simp] theorem signal_size2 (p : Prim) (k : Point) (s : State) : (signal p k s).size2 = s.size2 := rfl
@[simp] theorem signal_inputs (p : Prim) (k : Point) (s : State) : (signal p k s).inputs = s.inputs := rfl
@[simp] theorem signal_answers (p : Prim) (k : Point) (s : State) : (signal p k s).answers = s.answers := rfl
@[simp] theorem signal_draws (p : Prim) (k : Point) (s : State) : (signal p k s).draws = s.draws := rfl
@[simp] theorem signal_hostData (p : Prim) (k : Point) (s : State) : (signal p k s).hostData = s.hostData := rfl

/-! ### raise -/

@[simp] theorem raise_cfg (e : ErrCode) (prim : PrimCode) (idx : Half) (s : State) : (raise e prim idx s).cfg = s.cfg := rfl
@[simp] theorem raise_cmdLast (e : ErrCode) (prim : PrimCode) (idx : Half) (s : State) : (raise e prim idx s).cmdLast = s.cmdLast := rfl
@[simp] theorem raise_busy (e : ErrCode) (prim : PrimCode) (idx : Half) (s : State) : (raise e prim idx s).busy = false := rfl
@[simp] theorem raise_ovr (e : ErrCode) (prim : PrimCode) (idx : Half) (s : State) : (raise e prim idx s).ovr = s.ovr := rfl
@[simp] theorem raise_cancelPending (e : ErrCode) (prim : PrimCode) (idx : Half) (s : State) : (raise e prim idx s).cancelPending = false := rfl
@[simp] theorem raise_err (e : ErrCode) (prim : PrimCode) (idx : Half) (s : State) : (raise e prim idx s).err = e := rfl
@[simp] theorem raise_capState (e : ErrCode) (prim : PrimCode) (idx : Half) (s : State) : (raise e prim idx s).capState = s.capState := rfl
@[simp] theorem raise_inFrame (e : ErrCode) (prim : PrimCode) (idx : Half) (s : State) : (raise e prim idx s).inFrame = s.inFrame := rfl
@[simp] theorem raise_csState (e : ErrCode) (prim : PrimCode) (idx : Half) (s : State) : (raise e prim idx s).csState = s.csState := rfl
@[simp] theorem raise_result (e : ErrCode) (prim : PrimCode) (idx : Half) (s : State) : (raise e prim idx s).result = s.result := rfl
@[simp] theorem raise_resultWritten (e : ErrCode) (prim : PrimCode) (idx : Half) (s : State) : (raise e prim idx s).resultWritten = s.resultWritten := rfl
@[simp] theorem raise_errPrim (e : ErrCode) (prim : PrimCode) (idx : Half) (s : State) : (raise e prim idx s).errPrim = prim := rfl
@[simp] theorem raise_errIdx (e : ErrCode) (prim : PrimCode) (idx : Half) (s : State) : (raise e prim idx s).errIdx = idx := rfl
@[simp] theorem raise_tblCount (e : ErrCode) (prim : PrimCode) (idx : Half) (s : State) : (raise e prim idx s).tblCount = s.tblCount := rfl
@[simp] theorem raise_capLen (e : ErrCode) (prim : PrimCode) (idx : Half) (s : State) : (raise e prim idx s).capLen = s.capLen := rfl
@[simp] theorem raise_capRemain (e : ErrCode) (prim : PrimCode) (idx : Half) (s : State) : (raise e prim idx s).capRemain = s.capRemain := rfl
@[simp] theorem raise_capCursor (e : ErrCode) (prim : PrimCode) (idx : Half) (s : State) : (raise e prim idx s).capCursor = s.capCursor := rfl
@[simp] theorem raise_capPrev (e : ErrCode) (prim : PrimCode) (idx : Half) (s : State) : (raise e prim idx s).capPrev = s.capPrev := rfl
@[simp] theorem raise_capCur (e : ErrCode) (prim : PrimCode) (idx : Half) (s : State) : (raise e prim idx s).capCur = s.capCur := rfl
@[simp] theorem raise_capOut (e : ErrCode) (prim : PrimCode) (idx : Half) (s : State) : (raise e prim idx s).capOut = s.capOut := rfl
@[simp] theorem raise_pollCount (e : ErrCode) (prim : PrimCode) (idx : Half) (s : State) : (raise e prim idx s).pollCount = s.pollCount := rfl
@[simp] theorem raise_nmeaOk (e : ErrCode) (prim : PrimCode) (idx : Half) (s : State) : (raise e prim idx s).nmeaOk = s.nmeaOk := rfl
@[simp] theorem raise_nmeaBad (e : ErrCode) (prim : PrimCode) (idx : Half) (s : State) : (raise e prim idx s).nmeaBad = s.nmeaBad := rfl
@[simp] theorem raise_nmeaUnk (e : ErrCode) (prim : PrimCode) (idx : Half) (s : State) : (raise e prim idx s).nmeaUnk = s.nmeaUnk := rfl
@[simp] theorem raise_loc (e : ErrCode) (prim : PrimCode) (idx : Half) (s : State) : (raise e prim idx s).loc = s.loc := rfl
@[simp] theorem raise_curCmd (e : ErrCode) (prim : PrimCode) (idx : Half) (s : State) : (raise e prim idx s).curCmd = s.curCmd := rfl
@[simp] theorem raise_pcSeq (e : ErrCode) (prim : PrimCode) (idx : Half) (s : State) : (raise e prim idx s).pcSeq = .idle := rfl
@[simp] theorem raise_ti (e : ErrCode) (prim : PrimCode) (idx : Half) (s : State) : (raise e prim idx s).ti = s.ti := rfl
@[simp] theorem raise_rmwV (e : ErrCode) (prim : PrimCode) (idx : Half) (s : State) : (raise e prim idx s).rmwV = s.rmwV := rfl
@[simp] theorem raise_tmem (e : ErrCode) (prim : PrimCode) (idx : Half) (s : State) : (raise e prim idx s).tmem = s.tmem := rfl
@[simp] theorem raise_lmem (e : ErrCode) (prim : PrimCode) (idx : Half) (s : State) : (raise e prim idx s).lmem = s.lmem := rfl
@[simp] theorem raise_abuf (e : ErrCode) (prim : PrimCode) (idx : Half) (s : State) : (raise e prim idx s).abuf = s.abuf := rfl
@[simp] theorem raise_hist (e : ErrCode) (prim : PrimCode) (idx : Half) (s : State) : (raise e prim idx s).hist = s.hist := rfl
@[simp] theorem raise_sink (e : ErrCode) (prim : PrimCode) (idx : Half) (s : State) : (raise e prim idx s).sink = s.sink := rfl
@[simp] theorem raise_ans (e : ErrCode) (prim : PrimCode) (idx : Half) (s : State) : (raise e prim idx s).ans = s.ans := rfl
@[simp] theorem raise_size1 (e : ErrCode) (prim : PrimCode) (idx : Half) (s : State) : (raise e prim idx s).size1 = s.size1 := rfl
@[simp] theorem raise_size2 (e : ErrCode) (prim : PrimCode) (idx : Half) (s : State) : (raise e prim idx s).size2 = s.size2 := rfl
@[simp] theorem raise_inputs (e : ErrCode) (prim : PrimCode) (idx : Half) (s : State) : (raise e prim idx s).inputs = s.inputs := rfl
@[simp] theorem raise_answers (e : ErrCode) (prim : PrimCode) (idx : Half) (s : State) : (raise e prim idx s).answers = s.answers := rfl
@[simp] theorem raise_draws (e : ErrCode) (prim : PrimCode) (idx : Half) (s : State) : (raise e prim idx s).draws = s.draws := rfl
@[simp] theorem raise_hostData (e : ErrCode) (prim : PrimCode) (idx : Half) (s : State) : (raise e prim idx s).hostData = s.hostData := rfl

/-! ### finish -/

@[simp] theorem finish_cfg (e : ErrCode) (s : State) : (finish e s).cfg = s.cfg := rfl
@[simp] theorem finish_cmdLast (e : ErrCode) (s : State) : (finish e s).cmdLast = s.cmdLast := rfl
@[simp] theorem finish_busy (e : ErrCode) (s : State) : (finish e s).busy = false := rfl
@[simp] theorem finish_ovr (e : ErrCode) (s : State) : (finish e s).ovr = s.ovr := rfl
@[simp] theorem finish_cancelPending (e : ErrCode) (s : State) : (finish e s).cancelPending = false := rfl
@[simp] theorem finish_err (e : ErrCode) (s : State) : (finish e s).err = e := rfl
@[simp] theorem finish_capState (e : ErrCode) (s : State) : (finish e s).capState = s.capState := rfl
@[simp] theorem finish_inFrame (e : ErrCode) (s : State) : (finish e s).inFrame = s.inFrame := rfl
@[simp] theorem finish_csState (e : ErrCode) (s : State) : (finish e s).csState = s.csState := rfl
@[simp] theorem finish_result (e : ErrCode) (s : State) : (finish e s).result = s.result := rfl
@[simp] theorem finish_resultWritten (e : ErrCode) (s : State) : (finish e s).resultWritten = s.resultWritten := rfl
@[simp] theorem finish_errPrim (e : ErrCode) (s : State) : (finish e s).errPrim = s.errPrim := rfl
@[simp] theorem finish_errIdx (e : ErrCode) (s : State) : (finish e s).errIdx = s.errIdx := rfl
@[simp] theorem finish_tblCount (e : ErrCode) (s : State) : (finish e s).tblCount = s.tblCount := rfl
@[simp] theorem finish_capLen (e : ErrCode) (s : State) : (finish e s).capLen = s.capLen := rfl
@[simp] theorem finish_capRemain (e : ErrCode) (s : State) : (finish e s).capRemain = s.capRemain := rfl
@[simp] theorem finish_capCursor (e : ErrCode) (s : State) : (finish e s).capCursor = s.capCursor := rfl
@[simp] theorem finish_capPrev (e : ErrCode) (s : State) : (finish e s).capPrev = s.capPrev := rfl
@[simp] theorem finish_capCur (e : ErrCode) (s : State) : (finish e s).capCur = s.capCur := rfl
@[simp] theorem finish_capOut (e : ErrCode) (s : State) : (finish e s).capOut = s.capOut := rfl
@[simp] theorem finish_pollCount (e : ErrCode) (s : State) : (finish e s).pollCount = s.pollCount := rfl
@[simp] theorem finish_nmeaOk (e : ErrCode) (s : State) : (finish e s).nmeaOk = s.nmeaOk := rfl
@[simp] theorem finish_nmeaBad (e : ErrCode) (s : State) : (finish e s).nmeaBad = s.nmeaBad := rfl
@[simp] theorem finish_nmeaUnk (e : ErrCode) (s : State) : (finish e s).nmeaUnk = s.nmeaUnk := rfl
@[simp] theorem finish_loc (e : ErrCode) (s : State) : (finish e s).loc = s.loc := rfl
@[simp] theorem finish_curCmd (e : ErrCode) (s : State) : (finish e s).curCmd = s.curCmd := rfl
@[simp] theorem finish_pcSeq (e : ErrCode) (s : State) : (finish e s).pcSeq = .idle := rfl
@[simp] theorem finish_ti (e : ErrCode) (s : State) : (finish e s).ti = s.ti := rfl
@[simp] theorem finish_rmwV (e : ErrCode) (s : State) : (finish e s).rmwV = s.rmwV := rfl
@[simp] theorem finish_tmem (e : ErrCode) (s : State) : (finish e s).tmem = s.tmem := rfl
@[simp] theorem finish_lmem (e : ErrCode) (s : State) : (finish e s).lmem = s.lmem := rfl
@[simp] theorem finish_abuf (e : ErrCode) (s : State) : (finish e s).abuf = s.abuf := rfl
@[simp] theorem finish_hist (e : ErrCode) (s : State) : (finish e s).hist = s.hist := rfl
@[simp] theorem finish_sink (e : ErrCode) (s : State) : (finish e s).sink = s.sink := rfl
@[simp] theorem finish_ans (e : ErrCode) (s : State) : (finish e s).ans = s.ans := rfl
@[simp] theorem finish_size1 (e : ErrCode) (s : State) : (finish e s).size1 = s.size1 := rfl
@[simp] theorem finish_size2 (e : ErrCode) (s : State) : (finish e s).size2 = s.size2 := rfl
@[simp] theorem finish_inputs (e : ErrCode) (s : State) : (finish e s).inputs = s.inputs := rfl
@[simp] theorem finish_answers (e : ErrCode) (s : State) : (finish e s).answers = s.answers := rfl
@[simp] theorem finish_draws (e : ErrCode) (s : State) : (finish e s).draws = s.draws := rfl
@[simp] theorem finish_hostData (e : ErrCode) (s : State) : (finish e s).hostData = s.hostData := rfl

/-! ### sessionInit -/

@[simp] theorem sessionInit_cfg (s : State) : (sessionInit s).cfg = s.cfg := rfl
@[simp] theorem sessionInit_cmdLast (s : State) : (sessionInit s).cmdLast = s.cmdLast := rfl
@[simp] theorem sessionInit_busy (s : State) : (sessionInit s).busy = s.busy := rfl
@[simp] theorem sessionInit_ovr (s : State) : (sessionInit s).ovr = s.ovr := rfl
@[simp] theorem sessionInit_cancelPending (s : State) : (sessionInit s).cancelPending = s.cancelPending := rfl
@[simp] theorem sessionInit_err (s : State) : (sessionInit s).err = s.err := rfl
@[simp] theorem sessionInit_capState (s : State) : (sessionInit s).capState = .idle := rfl
@[simp] theorem sessionInit_inFrame (s : State) : (sessionInit s).inFrame = false := rfl
@[simp] theorem sessionInit_csState (s : State) : (sessionInit s).csState = s.csState := rfl
@[simp] theorem sessionInit_result (s : State) : (sessionInit s).result = s.result := rfl
@[simp] theorem sessionInit_resultWritten (s : State) : (sessionInit s).resultWritten = s.resultWritten := rfl
@[simp] theorem sessionInit_errPrim (s : State) : (sessionInit s).errPrim = s.errPrim := rfl
@[simp] theorem sessionInit_errIdx (s : State) : (sessionInit s).errIdx = s.errIdx := rfl
@[simp] theorem sessionInit_tblCount (s : State) : (sessionInit s).tblCount = s.tblCount := rfl
@[simp] theorem sessionInit_capLen (s : State) : (sessionInit s).capLen = 0 := rfl
@[simp] theorem sessionInit_capRemain (s : State) : (sessionInit s).capRemain = 0 := rfl
@[simp] theorem sessionInit_capCursor (s : State) : (sessionInit s).capCursor = 0 := rfl
@[simp] theorem sessionInit_capPrev (s : State) : (sessionInit s).capPrev = 0 := rfl
@[simp] theorem sessionInit_capCur (s : State) : (sessionInit s).capCur = 0 := rfl
@[simp] theorem sessionInit_capOut (s : State) : (sessionInit s).capOut = 0 := rfl
@[simp] theorem sessionInit_pollCount (s : State) : (sessionInit s).pollCount = 0 := rfl
@[simp] theorem sessionInit_nmeaOk (s : State) : (sessionInit s).nmeaOk = s.nmeaOk := rfl
@[simp] theorem sessionInit_nmeaBad (s : State) : (sessionInit s).nmeaBad = s.nmeaBad := rfl
@[simp] theorem sessionInit_nmeaUnk (s : State) : (sessionInit s).nmeaUnk = s.nmeaUnk := rfl
@[simp] theorem sessionInit_loc (s : State) : (sessionInit s).loc = s.loc := rfl
@[simp] theorem sessionInit_curCmd (s : State) : (sessionInit s).curCmd = s.curCmd := rfl
@[simp] theorem sessionInit_pcSeq (s : State) : (sessionInit s).pcSeq = s.pcSeq := rfl
@[simp] theorem sessionInit_ti (s : State) : (sessionInit s).ti = s.ti := rfl
@[simp] theorem sessionInit_rmwV (s : State) : (sessionInit s).rmwV = s.rmwV := rfl
@[simp] theorem sessionInit_tmem (s : State) : (sessionInit s).tmem = s.tmem := rfl
@[simp] theorem sessionInit_lmem (s : State) : (sessionInit s).lmem = s.lmem := rfl
@[simp] theorem sessionInit_abuf (s : State) : (sessionInit s).abuf = s.abuf := rfl
@[simp] theorem sessionInit_hist (s : State) : (sessionInit s).hist = s.hist := rfl
@[simp] theorem sessionInit_sink (s : State) : (sessionInit s).sink = s.sink := rfl
@[simp] theorem sessionInit_ans (s : State) : (sessionInit s).ans = s.ans := rfl
@[simp] theorem sessionInit_size1 (s : State) : (sessionInit s).size1 = s.size1 := rfl
@[simp] theorem sessionInit_size2 (s : State) : (sessionInit s).size2 = s.size2 := rfl
@[simp] theorem sessionInit_inputs (s : State) : (sessionInit s).inputs = s.inputs := rfl
@[simp] theorem sessionInit_answers (s : State) : (sessionInit s).answers = s.answers := rfl
@[simp] theorem sessionInit_draws (s : State) : (sessionInit s).draws = s.draws := rfl
@[simp] theorem sessionInit_hostData (s : State) : (sessionInit s).hostData = s.hostData := rfl

/-! ### slideWindow -/

@[simp] theorem slideWindow_cfg (x : Byte) (s : State) : (slideWindow x s).cfg = s.cfg := rfl
@[simp] theorem slideWindow_cmdLast (x : Byte) (s : State) : (slideWindow x s).cmdLast = s.cmdLast := rfl
@[simp] theorem slideWindow_busy (x : Byte) (s : State) : (slideWindow x s).busy = s.busy := rfl
@[simp] theorem slideWindow_ovr (x : Byte) (s : State) : (slideWindow x s).ovr = s.ovr := rfl
@[simp] theorem slideWindow_cancelPending (x : Byte) (s : State) : (slideWindow x s).cancelPending = s.cancelPending := rfl
@[simp] theorem slideWindow_err (x : Byte) (s : State) : (slideWindow x s).err = s.err := rfl
@[simp] theorem slideWindow_capState (x : Byte) (s : State) : (slideWindow x s).capState = s.capState := rfl
@[simp] theorem slideWindow_inFrame (x : Byte) (s : State) : (slideWindow x s).inFrame = s.inFrame := rfl
@[simp] theorem slideWindow_csState (x : Byte) (s : State) : (slideWindow x s).csState = s.csState := rfl
@[simp] theorem slideWindow_result (x : Byte) (s : State) : (slideWindow x s).result = s.result := rfl
@[simp] theorem slideWindow_resultWritten (x : Byte) (s : State) : (slideWindow x s).resultWritten = s.resultWritten := rfl
@[simp] theorem slideWindow_errPrim (x : Byte) (s : State) : (slideWindow x s).errPrim = s.errPrim := rfl
@[simp] theorem slideWindow_errIdx (x : Byte) (s : State) : (slideWindow x s).errIdx = s.errIdx := rfl
@[simp] theorem slideWindow_tblCount (x : Byte) (s : State) : (slideWindow x s).tblCount = s.tblCount := rfl
@[simp] theorem slideWindow_capLen (x : Byte) (s : State) : (slideWindow x s).capLen = s.capLen := rfl
@[simp] theorem slideWindow_capRemain (x : Byte) (s : State) : (slideWindow x s).capRemain = s.capRemain - 1 := rfl
@[simp] theorem slideWindow_capCursor (x : Byte) (s : State) : (slideWindow x s).capCursor = s.capCursor := rfl
@[simp] theorem slideWindow_capPrev (x : Byte) (s : State) : (slideWindow x s).capPrev = s.capCur := rfl
@[simp] theorem slideWindow_capCur (x : Byte) (s : State) : (slideWindow x s).capCur = x := rfl
@[simp] theorem slideWindow_capOut (x : Byte) (s : State) : (slideWindow x s).capOut = s.capOut := rfl
@[simp] theorem slideWindow_pollCount (x : Byte) (s : State) : (slideWindow x s).pollCount = s.pollCount := rfl
@[simp] theorem slideWindow_nmeaOk (x : Byte) (s : State) : (slideWindow x s).nmeaOk = s.nmeaOk := rfl
@[simp] theorem slideWindow_nmeaBad (x : Byte) (s : State) : (slideWindow x s).nmeaBad = s.nmeaBad := rfl
@[simp] theorem slideWindow_nmeaUnk (x : Byte) (s : State) : (slideWindow x s).nmeaUnk = s.nmeaUnk := rfl
@[simp] theorem slideWindow_loc (x : Byte) (s : State) : (slideWindow x s).loc = s.loc := rfl
@[simp] theorem slideWindow_curCmd (x : Byte) (s : State) : (slideWindow x s).curCmd = s.curCmd := rfl
@[simp] theorem slideWindow_pcSeq (x : Byte) (s : State) : (slideWindow x s).pcSeq = s.pcSeq := rfl
@[simp] theorem slideWindow_ti (x : Byte) (s : State) : (slideWindow x s).ti = s.ti := rfl
@[simp] theorem slideWindow_rmwV (x : Byte) (s : State) : (slideWindow x s).rmwV = s.rmwV := rfl
@[simp] theorem slideWindow_tmem (x : Byte) (s : State) : (slideWindow x s).tmem = s.tmem := rfl
@[simp] theorem slideWindow_lmem (x : Byte) (s : State) : (slideWindow x s).lmem = s.lmem := rfl
@[simp] theorem slideWindow_abuf (x : Byte) (s : State) : (slideWindow x s).abuf = s.abuf := rfl
@[simp] theorem slideWindow_hist (x : Byte) (s : State) : (slideWindow x s).hist = s.hist := rfl
@[simp] theorem slideWindow_sink (x : Byte) (s : State) : (slideWindow x s).sink = s.sink := rfl
@[simp] theorem slideWindow_ans (x : Byte) (s : State) : (slideWindow x s).ans = s.ans := rfl
@[simp] theorem slideWindow_size1 (x : Byte) (s : State) : (slideWindow x s).size1 = s.size1 := rfl
@[simp] theorem slideWindow_size2 (x : Byte) (s : State) : (slideWindow x s).size2 = s.size2 := rfl
@[simp] theorem slideWindow_inputs (x : Byte) (s : State) : (slideWindow x s).inputs = s.inputs := rfl
@[simp] theorem slideWindow_answers (x : Byte) (s : State) : (slideWindow x s).answers = s.answers := rfl
@[simp] theorem slideWindow_draws (x : Byte) (s : State) : (slideWindow x s).draws = s.draws := rfl
@[simp] theorem slideWindow_hostData (x : Byte) (s : State) : (slideWindow x s).hostData = s.hostData := rfl

/-! ### startFold -/

@[simp] theorem startFold_cfg (s : State) : (startFold s).cfg = s.cfg := rfl
@[simp] theorem startFold_cmdLast (s : State) : (startFold s).cmdLast = s.cmdLast := rfl
@[simp] theorem startFold_busy (s : State) : (startFold s).busy = s.busy := rfl
@[simp] theorem startFold_ovr (s : State) : (startFold s).ovr = s.ovr := rfl
@[simp] theorem startFold_cancelPending (s : State) : (startFold s).cancelPending = s.cancelPending := rfl
@[simp] theorem startFold_err (s : State) : (startFold s).err = s.err := rfl
@[simp] theorem startFold_capState (s : State) : (startFold s).capState = s.capState := rfl
@[simp] theorem startFold_inFrame (s : State) : (startFold s).inFrame = s.inFrame := rfl
@[simp] theorem startFold_csState (s : State) : (startFold s).csState = s.csState := rfl
@[simp] theorem startFold_result (s : State) : (startFold s).result = s.result := rfl
@[simp] theorem startFold_resultWritten (s : State) : (startFold s).resultWritten = s.resultWritten := rfl
@[simp] theorem startFold_errPrim (s : State) : (startFold s).errPrim = s.errPrim := rfl
@[simp] theorem startFold_errIdx (s : State) : (startFold s).errIdx = s.errIdx := rfl
@[simp] theorem startFold_tblCount (s : State) : (startFold s).tblCount = s.tblCount := rfl
@[simp] theorem startFold_capLen (s : State) : (startFold s).capLen = s.capLen := rfl
@[simp] theorem startFold_capRemain (s : State) : (startFold s).capRemain = s.capRemain := rfl
@[simp] theorem startFold_capCursor (s : State) : (startFold s).capCursor = s.capCursor := rfl
@[simp] theorem startFold_capPrev (s : State) : (startFold s).capPrev = s.capPrev := rfl
@[simp] theorem startFold_capCur (s : State) : (startFold s).capCur = s.capCur := rfl
@[simp] theorem startFold_capOut (s : State) : (startFold s).capOut = s.capOut := rfl
@[simp] theorem startFold_pollCount (s : State) : (startFold s).pollCount = s.pollCount := rfl
@[simp] theorem startFold_nmeaOk (s : State) : (startFold s).nmeaOk = 0 := rfl
@[simp] theorem startFold_nmeaBad (s : State) : (startFold s).nmeaBad = 0 := rfl
@[simp] theorem startFold_nmeaUnk (s : State) : (startFold s).nmeaUnk = 0 := rfl
@[simp] theorem startFold_loc (s : State) : (startFold s).loc = {} := rfl
@[simp] theorem startFold_curCmd (s : State) : (startFold s).curCmd = s.curCmd := rfl
@[simp] theorem startFold_pcSeq (s : State) : (startFold s).pcSeq = s.pcSeq := rfl
@[simp] theorem startFold_ti (s : State) : (startFold s).ti = s.ti := rfl
@[simp] theorem startFold_rmwV (s : State) : (startFold s).rmwV = s.rmwV := rfl
@[simp] theorem startFold_tmem (s : State) : (startFold s).tmem = s.tmem := rfl
@[simp] theorem startFold_lmem (s : State) : (startFold s).lmem = s.lmem := rfl
@[simp] theorem startFold_abuf (s : State) : (startFold s).abuf = s.abuf := rfl
@[simp] theorem startFold_hist (s : State) : (startFold s).hist = s.hist := rfl
@[simp] theorem startFold_sink (s : State) : (startFold s).sink = s.sink := rfl
@[simp] theorem startFold_ans (s : State) : (startFold s).ans = s.ans := rfl
@[simp] theorem startFold_size1 (s : State) : (startFold s).size1 = s.size1 := rfl
@[simp] theorem startFold_size2 (s : State) : (startFold s).size2 = s.size2 := rfl
@[simp] theorem startFold_inputs (s : State) : (startFold s).inputs = s.inputs := rfl
@[simp] theorem startFold_answers (s : State) : (startFold s).answers = s.answers := rfl
@[simp] theorem startFold_draws (s : State) : (startFold s).draws = s.draws := rfl
@[simp] theorem startFold_hostData (s : State) : (startFold s).hostData = s.hostData := rfl

/-! ### Operations that are one of the above -/

@[simp] theorem raiseBus_eq (prim : PrimCode) (s : State) : raiseBus prim s = raise .busError prim 0 s := rfl
@[simp] theorem raiseCs_eq (s : State) : raiseCs s = raise .csNotReleased .none 0 s := rfl
@[simp] theorem captureFail_eq (e : ErrCode) (prim : PrimCode) (s : State) :
    captureFail e prim s = raise e prim 0 { s with capState := .idle } := rfl
@[simp] theorem captureSinkFail_eq (s : State) :
    captureSinkFail s = raise .sinkError .sinkWrite 0 { s with csState := .unknown, capState := .idle } := rfl
@[simp] theorem portDelay_eq (s : State) : portDelay s = signal (.delayMs 1) .written s := rfl
@[simp] theorem portRead_eq (p : Port) (a : Half) (s : State) : portRead p a s = ask (readCall p a) .read s := rfl
@[simp] theorem finishResult_eq (v : Half) (s : State) :
    finishResult v s = finish .ok { s with result := v, resultWritten := true } := rfl

/-! ### Answers -/

/-- An answer depends on the state through the script and the history only. -/
theorem answerTo_congr {p : Prim} {s t : State} (ha : s.answers = t.answers) (hh : s.hist = t.hist) :
    answerTo p s = answerTo p t := by
  simp only [answerTo, ha, hh]

end Sys2Proof.Laws
end

