-- ==== Sys2Proof/Laws/Ops.lean ====
section
/-! SUPPORT. For each shared operation of the sequencer one lemma that says everything it can do. Where an operation answers
`.next t`, its lemma lists the forms of `t`, with the condition of each. -/

namespace Sys2Proof.Laws

open Sys2Proof.Machine

/-! ### The answers of the environment -/

/-- An answer to a chip-select or delay primitive is `Ok` (R14). -/
@[simp] theorem answerTo_csAssert (s : State) : answerTo .csAssert s = .ok 0 := by simp [answerTo, fitAnswer]
@[simp] theorem answerTo_csDeassert (s : State) : answerTo .csDeassert s = .ok 0 := by simp [answerTo, fitAnswer]
@[simp] theorem answerTo_delayMs (n : Nat) (s : State) : answerTo (.delayMs n) s = .ok 0 := by simp [answerTo, fitAnswer]

/-- A scripted `Ok` answers a control-bus read with its low bits (R14). -/
theorem answerTo_cbRead_ok {aw dw : Width} {a v : Half} {s : State} {rest : List Answer} (h : s.answers = .ok v :: rest) :
    answerTo (.cbRead aw dw a) s = .ok (v &&& widthMask dw) := by simp [answerTo, fitAnswer, h]

/-- A scripted `Ok` answers a transfer-bus read with its low byte (R14). -/
theorem answerTo_tbRead_ok {a : Byte} {v : Half} {s : State} {rest : List Answer} (h : s.answers = .ok v :: rest) :
    answerTo (.tbRead a) s = .ok (v &&& 0x00FF) := by simp [answerTo, fitAnswer, h]

/-- A scripted `Ok` answers a control-bus write without a value (R14). -/
theorem answerTo_cbWrite_ok {aw dw : Width} {a x v : Half} {s : State} {rest : List Answer}
    (h : s.answers = .ok v :: rest) : answerTo (.cbWrite aw dw a x) s = .ok 0 := by simp [answerTo, fitAnswer, h]

/-- A scripted `Err` answers a control-bus write with `Err` (R14). -/
theorem answerTo_cbWrite_err {aw dw : Width} {a x : Half} {s : State} {rest : List Answer}
    (h : s.answers = .err :: rest) : answerTo (.cbWrite aw dw a x) s = .err := by simp [answerTo, fitAnswer, h]

/-! ### Taking a command -/

/-- Taking a descriptor: CMD_LAST always; a legal one makes the sequencer busy at its first program point, an illegal one only
sets ILLEGAL_COMMAND (R118). -/
theorem takeCommand_cases (c : Desc) (s : State) :
    (legal c = true ∧ takeCommand c s =
      { s with cmdLast := c, curCmd := c, busy := true, err := .ok, errPrim := .none, errIdx := 0, pcSeq := .start }) ∨
    (legal c = false ∧ takeCommand c s =
      { s with cmdLast := c, err := .illegalCommand, errPrim := .none, errIdx := 0 }) := by
  cases h : legal c <;> simp [takeCommand, h]

/-! ### The register driver -/

/-- WR: the end on an inert port, the refusal, the write, its delay, and the end by the write's answer (R145 to R149). -/
theorem wrCmd_cases (p : Port) (addr val : Half) (s : State) :
    (isInert p = true ∧ wrCmd p addr val s = .next (finish .ok s)) ∨
    (isInert p = false ∧ s.pcSeq ≠ .written ∧ (s.pcSeq = .delay → hasDelay p = false) ∧ csBlocked p s = true ∧
      wrCmd p addr val s = .next (raise .csNotReleased .none 0 s)) ∨
    (isInert p = false ∧ s.pcSeq ≠ .written ∧ (s.pcSeq = .delay → hasDelay p = false) ∧ csBlocked p s = false ∧
      wrCmd p addr val s = .next (portWrite p addr val s)) ∨
    (hasDelay p = true ∧ s.pcSeq = .delay ∧ wrCmd p addr val s = .next (signal (.delayMs 1) .written s)) ∨
    (isInert p = false ∧ s.pcSeq = .written ∧ s.ans = .err ∧
      wrCmd p addr val s = .next (raise .busError (writePrim p) 0 s)) ∨
    (isInert p = false ∧ s.pcSeq = .written ∧ s.ans ≠ .err ∧ wrCmd p addr val s = .next (finish .ok s)) := by
  cases hp : isInert p
  · cases hk : s.pcSeq <;> cases ha : s.ans <;> cases hd : hasDelay p <;> cases hc : csBlocked p s <;>
      simp [wrCmd, wrFirst, endWrite, hp, hk, ha, hd, hc]
  · simp [wrCmd, hp]

/-- RD: the drawn value on an inert port, the refusal, the read, and the end by its answer (R155 to R159). -/
theorem rdCmd_cases (p : Port) (addr : Half) (s : State) :
    (isInert p = true ∧
      rdCmd p addr s = .next (finish .ok { s with result := draw s, resultWritten := true, draws := s.draws + 1 })) ∨
    (isInert p = false ∧ s.pcSeq ≠ .read ∧ csBlocked p s = true ∧
      rdCmd p addr s = .next (raise .csNotReleased .none 0 s)) ∨
    (isInert p = false ∧ s.pcSeq ≠ .read ∧ csBlocked p s = false ∧
      rdCmd p addr s = .next (ask (readCall p addr) .read s)) ∨
    (isInert p = false ∧ s.pcSeq = .read ∧ s.ans = .err ∧ rdCmd p addr s = .next (raise .busError (readPrim p) 0 s)) ∨
    (∃ v, isInert p = false ∧ s.pcSeq = .read ∧ s.ans = .ok v ∧
      rdCmd p addr s = .next (finish .ok { s with result := v, resultWritten := true })) := by
  cases hp : isInert p
  · cases hk : s.pcSeq <;> cases ha : s.ans <;> cases hc : csBlocked p s <;>
      simp [rdCmd, rdFirst, endRead, hp, hk, ha, hc]
  · exact .inl ⟨rfl, by simp only [rdCmd, hp, if_true]; rfl⟩

/-- The head of the table loop: out of range, at an unwritten entry, at the sentinel, or the entry's write (R150). -/
theorem tableEntry_cases (p : Port) (tbase tlen : Half) (s : State) :
    ((tlen.toNat ≤ s.ti.toNat ∨ s.cfg.tmemEntries ≤ tbase.toNat + s.ti.toNat) ∧
      tableEntry p tbase tlen s = .next (raise .rangeError .none s.ti s)) ∨
    (s.ti.toNat < tlen.toNat ∧ tbase.toNat + s.ti.toNat < s.cfg.tmemEntries ∧
      Memory.read s.tmem (tbase.toNat + s.ti.toNat) = none ∧
      tableEntry p tbase tlen s = .fault (.unwrittenTmem (tbase.toNat + s.ti.toNat))) ∨
    (∃ e, s.ti.toNat < tlen.toNat ∧ tbase.toNat + s.ti.toNat < s.cfg.tmemEntries ∧
      Memory.read s.tmem (tbase.toNat + s.ti.toNat) = some e ∧ isSentinel p e = true ∧
      tableEntry p tbase tlen s = .next (finish .ok s)) ∨
    (∃ e, s.ti.toNat < tlen.toNat ∧ tbase.toNat + s.ti.toNat < s.cfg.tmemEntries ∧
      Memory.read s.tmem (tbase.toNat + s.ti.toNat) = some e ∧ isSentinel p e = false ∧
      tableEntry p tbase tlen s =
        .next (portWrite p (entryAddr e) (entryVal e) { s with tblCount := s.tblCount + 1 })) := by
  by_cases h : tlen.toNat ≤ s.ti.toNat ∨ s.cfg.tmemEntries ≤ tbase.toNat + s.ti.toNat
  · exact .inl ⟨h, by simp [tableEntry, h]⟩
  · have h' := h
    push Not at h'
    cases hr : Memory.read s.tmem (tbase.toNat + s.ti.toNat) with
    | none => exact .inr (.inl ⟨h'.1, h'.2, rfl, by simp [tableEntry, h, hr]⟩)
    | some e =>
      cases hs : isSentinel p e
      · exact .inr (.inr (.inr ⟨e, h'.1, h'.2, rfl, hs, by simp [tableEntry, h, hr, hs]⟩))
      · exact .inr (.inr (.inl ⟨e, h'.1, h'.2, rfl, hs, by simp [tableEntry, h, hr, hs]⟩))

/-- TBL: the end on an inert port, the delay, the stop at a write answered `Err`, or the head of the loop with TI and TBL_COUNT
zero at the start and TI one further after a write answered `Ok` (R150). -/
theorem tblCmd_cases (p : Port) (tbase tlen : Half) (s : State) :
    (isInert p = true ∧ tblCmd p tbase tlen s = .next (finish .ok { s with tblCount := 0 })) ∨
    (hasDelay p = true ∧ s.pcSeq = .delay ∧ tblCmd p tbase tlen s = .next (signal (.delayMs 1) .written s)) ∨
    (isInert p = false ∧ s.pcSeq = .written ∧ s.ans = .err ∧
      tblCmd p tbase tlen s = .next (raise .busError .cbWrite s.ti s)) ∨
    (isInert p = false ∧ s.pcSeq = .written ∧ s.ans ≠ .err ∧
      tblCmd p tbase tlen s = tableEntry p tbase tlen { s with ti := s.ti + 1 }) ∨
    (isInert p = false ∧ s.pcSeq ≠ .written ∧ (s.pcSeq = .delay → hasDelay p = false) ∧
      tblCmd p tbase tlen s = tableEntry p tbase tlen { s with tblCount := 0, ti := 0 }) := by
  cases hp : isInert p
  · cases hk : s.pcSeq <;> cases ha : s.ans <;> cases hd : hasDelay p <;>
      simp [tblCmd, tableNext, tableFirst, hp, hk, ha, hd]
  · simp [tblCmd, hp]

/-- SETB and CLRB: the end on an inert port, the refusal, the read, the write of the modified value, its delay, and the ends by
the two answers (R160). -/
theorem modifyCmd_cases (p : Port) (addr : Half) (modify : Half → Half) (s : State) :
    (isInert p = true ∧ modifyCmd p addr modify s = .next (finish .ok { s with rmwV := draw s, draws := s.draws + 1 })) ∨
    (isInert p = false ∧ s.pcSeq ≠ .read ∧ s.pcSeq ≠ .written ∧ (s.pcSeq = .delay → hasDelay p = false) ∧
      csBlocked p s = true ∧
      modifyCmd p addr modify s = .next (raise .csNotReleased .none 0 s)) ∨
    (isInert p = false ∧ s.pcSeq ≠ .read ∧ s.pcSeq ≠ .written ∧ (s.pcSeq = .delay → hasDelay p = false) ∧
      csBlocked p s = false ∧
      modifyCmd p addr modify s = .next (ask (readCall p addr) .read s)) ∨
    (isInert p = false ∧ s.pcSeq = .read ∧ s.ans = .err ∧
      modifyCmd p addr modify s = .next (raise .busError (readPrim p) 0 s)) ∨
    (∃ v, isInert p = false ∧ s.pcSeq = .read ∧ s.ans = .ok v ∧
      modifyCmd p addr modify s = .next (portWrite p addr (modify v) { s with rmwV := v })) ∨
    (hasDelay p = true ∧ s.pcSeq = .delay ∧ modifyCmd p addr modify s = .next (signal (.delayMs 1) .written s)) ∨
    (isInert p = false ∧ s.pcSeq = .written ∧ s.ans = .err ∧
      modifyCmd p addr modify s = .next (raise .busError (writePrim p) 0 s)) ∨
    (isInert p = false ∧ s.pcSeq = .written ∧ s.ans ≠ .err ∧ modifyCmd p addr modify s = .next (finish .ok s)) := by
  cases hp : isInert p
  · cases hk : s.pcSeq <;> cases ha : s.ans <;> cases hd : hasDelay p <;> cases hc : csBlocked p s <;>
      simp [modifyCmd, rdFirst, endWrite, endModify, hp, hk, ha, hd, hc]
  · simp [modifyCmd, hp]

/-- GETB: the drawn bit on an inert port, the refusal, the read, and the end by its answer (R160, R163). -/
theorem getBitCmd_cases (p : Port) (addr : Half) (bit : BitVec 4) (s : State) :
    (isInert p = true ∧ getBitCmd p addr bit s = .next (finish .ok { s with
      result := bitOf (draw s) bit, resultWritten := true, rmwV := draw s, draws := s.draws + 1 })) ∨
    (isInert p = false ∧ s.pcSeq ≠ .read ∧ csBlocked p s = true ∧
      getBitCmd p addr bit s = .next (raise .csNotReleased .none 0 s)) ∨
    (isInert p = false ∧ s.pcSeq ≠ .read ∧ csBlocked p s = false ∧
      getBitCmd p addr bit s = .next (ask (readCall p addr) .read s)) ∨
    (isInert p = false ∧ s.pcSeq = .read ∧ s.ans = .err ∧
      getBitCmd p addr bit s = .next (raise .busError (readPrim p) 0 s)) ∨
    (∃ v, isInert p = false ∧ s.pcSeq = .read ∧ s.ans = .ok v ∧
      getBitCmd p addr bit s = .next (finish .ok { s with result := bitOf v bit, resultWritten := true, rmwV := v })) := by
  cases hp : isInert p
  · cases hk : s.pcSeq <;> cases ha : s.ans <;> cases hc : csBlocked p s <;>
      simp [getBitCmd, rdFirst, endGetBit, finish, hp, hk, ha, hc]
  · exact .inl ⟨rfl, by simp only [getBitCmd, hp, if_true]; rfl⟩

/-! ### The capture engine -/

/-- One poll: cancelled, out of polls, or the read (R195). -/
theorem pollAgain_cases (s : State) :
    (s.cancelPending = true ∧ pollAgain s = raise .cancelled .none 0 { s with capState := .idle }) ∨
    (s.cancelPending = false ∧ s.pollCount.toNat = s.cfg.pollLimit ∧
      pollAgain s = raise .captureTimeout .none 0 { s with capState := .idle }) ∨
    (s.cancelPending = false ∧ s.pollCount.toNat ≠ s.cfg.pollLimit ∧
      pollAgain s = ask (.tbRead s.cfg.regTrig) .polled { s with pollCount := s.pollCount + 1 }) := by
  cases h : s.cancelPending <;> by_cases h' : s.pollCount.toNat = s.cfg.pollLimit <;> simp [pollAgain, h, h']

/-- The length checks: empty, too long, or the burst is opened (R197, R198). -/
theorem openBurst_cases (s : State) :
    (s.capLen = 0 ∧ openBurst s = raise .emptyBuffer .none 0 { s with capState := .idle }) ∨
    (s.capLen ≠ 0 ∧ s.cfg.maxFifoSize ≤ s.capLen.toNat ∧
      openBurst s = raise .bufferOverflow .none 0 { s with capState := .idle }) ∨
    (s.capLen ≠ 0 ∧ s.capLen.toNat < s.cfg.maxFifoSize ∧
      openBurst s = signal .csAssert .csAsserted { s with capRemain := s.capLen }) := by
  by_cases h : s.capLen = 0
  · exact .inl ⟨h, by unfold openBurst; rw [if_pos h]; rfl⟩
  · by_cases h' : s.cfg.maxFifoSize ≤ s.capLen.toNat
    · exact .inr (.inl ⟨h, h', by simp only [openBurst, h, h', if_true, if_false]; rfl⟩)
    · exact .inr (.inr ⟨h, not_le.1 h', by simp only [openBurst, h, h', if_false]⟩)

/-- The head of the streaming loop: the end at no remaining byte, else one `XFER` (R199, R204). -/
theorem streamNext_cases (s : State) :
    (s.capRemain = 0 ∧ streamNext s = signal .csDeassert .exhausted s) ∨
    (s.capRemain ≠ 0 ∧ streamNext s = ask (.xfer 0x00) .pulled s) := by
  by_cases h : s.capRemain = 0
  · exact .inl ⟨h, by simp only [streamNext, h, if_true]⟩
  · exact .inr ⟨h, by simp only [streamNext, h, if_false]; rfl⟩

/-- A flush writes the first `n` bytes of ABUF to the sink, or faults at the first unwritten one (R201, R203). -/
theorem flush_cases (n : Nat) (k : Point) (s : State) :
    (∃ bytes, Memory.readRange (α := Byte) s.abuf 0 n = .ok bytes ∧ flush n k s = .next (askSink bytes k s)) ∨
    (∃ i, Memory.readRange (α := Byte) s.abuf 0 n = .error i ∧ flush n k s = .fault (.unwrittenAbuf i)) := by
  cases h : Memory.readRange (α := Byte) s.abuf 0 n <;> simp [flush, h]

/-- One byte is stored at the cursor, inside the capacity (R202). -/
theorem putByte_cases (b : Byte) (s : State) :
    (s.cfg.bufCap ≤ s.capCursor.toNat ∧ putByte b s = .error (.outsideAbuf s.capCursor.toNat)) ∨
    (s.capCursor.toNat < s.cfg.bufCap ∧ putByte b s = .ok { s with
      abuf := Memory.write (α := Byte) s.abuf s.capCursor.toNat b, capCursor := s.capCursor + 1 }) := by
  by_cases h : s.cfg.bufCap ≤ s.capCursor.toNat
  · exact .inl ⟨h, by simp [putByte, h]⟩
  · exact .inr ⟨by omega, by simp [putByte, h]⟩

/-- A store: a full buffer begins a rotation, else the byte is stored at the cursor and the command goes on (R202, R203). -/
theorem store_cases (site : StoreSite) (next : State → StepResult) (s : State) :
    (s.capCursor.toNat = s.cfg.bufCap ∧ store site next s = .next (signal .csDeassert (.rotDeasserted site) s)) ∨
    (s.cfg.bufCap < s.capCursor.toNat ∧ store site next s = .fault (.outsideAbuf s.capCursor.toNat)) ∨
    (s.capCursor.toNat < s.cfg.bufCap ∧ store site next s = next { s with
      abuf := Memory.write (α := Byte) s.abuf s.capCursor.toNat (storeByte site s), capCursor := s.capCursor + 1 }) := by
  rcases lt_trichotomy s.capCursor.toNat s.cfg.bufCap with h | h | h
  · refine .inr (.inr ⟨h, ?_⟩)
    simp [store, putByte, h.ne, not_le.2 h]
  · exact .inl ⟨h, by simp [store, h]⟩
  · refine .inr (.inl ⟨h, ?_⟩)
    simp [store, putByte, h.ne', h.le]

/-- After a frame byte: the end-of-image marker flushes, else the stream goes on (R191, R201). -/
theorem afterData_cases (s : State) :
    (s.capPrev = 0xFF ∧ s.capCur = 0xD9 ∧ afterData s = flush s.capCursor.toNat .eofFlushed s) ∨
    (¬(s.capPrev = 0xFF ∧ s.capCur = 0xD9) ∧ afterData s = .next (streamNext s)) := by
  by_cases h : s.capPrev = 0xFF ∧ s.capCur = 0xD9
  · exact .inl ⟨h.1, h.2, by simp [afterData, h]⟩
  · exact .inr ⟨h, by simp only [afterData, h, if_false]⟩

/-- A byte pulled: inside a frame it is stored, a start marker opens a frame, any other byte is passed over (R191, R200). -/
theorem examineWindow_cases (s : State) :
    (s.inFrame = true ∧ examineWindow s = store .data afterData s) ∨
    (s.inFrame = false ∧ s.capPrev = 0xFF ∧ s.capCur = 0xD8 ∧
      examineWindow s = store .startFF (store .startD8 fun s' => .next (streamNext s')) { s with inFrame := true }) ∨
    (s.inFrame = false ∧ ¬(s.capPrev = 0xFF ∧ s.capCur = 0xD8) ∧ examineWindow s = .next (streamNext s)) := by
  cases hf : s.inFrame
  · by_cases h : s.capPrev = 0xFF ∧ s.capCur = 0xD8
    · refine .inr (.inl ⟨rfl, h.1, h.2, ?_⟩)
      simp only [examineWindow, hf, h, and_self, if_true, Bool.false_eq_true, if_false]
      rfl
    · refine .inr (.inr ⟨rfl, h, ?_⟩)
      simp only [examineWindow, hf, h, Bool.false_eq_true, if_false]
  · refine .inl ⟨rfl, ?_⟩
    simp only [examineWindow, hf, if_true]
    rfl

/-- DESELECT: its event, then the end (R207). -/
theorem execDeselect_cases (s : State) :
    (s.pcSeq = .deselected ∧ execDeselect s = .next (finish .ok { s with csState := .deselected })) ∨
    (s.pcSeq ≠ .deselected ∧ execDeselect s = .next (signal .csDeassert .deselected s)) := by
  by_cases h : s.pcSeq = .deselected
  · exact .inl ⟨h, by simp [execDeselect, h]⟩
  · refine .inr ⟨h, ?_⟩
    unfold execDeselect
    split <;> simp_all

/-! ### The NMEA decoder -/

/-- The operands of an NMEA command: out of range, an unwritten byte, or the buffer (R240). -/
theorem withBuffer_cases (lbase llen : Half) (s : State) (next : List Byte → StepResult) :
    (s.cfg.lmemBytes < lbase.toNat + llen.toNat ∧
      withBuffer lbase llen s next = .next (raise .rangeError .none 0 s)) ∨
    (∃ i, lbase.toNat + llen.toNat ≤ s.cfg.lmemBytes ∧
      Memory.readRange (α := Byte) s.lmem lbase.toNat llen.toNat = .error i ∧
      withBuffer lbase llen s next = .fault (.unwrittenLmem i)) ∨
    (∃ buffer, lbase.toNat + llen.toNat ≤ s.cfg.lmemBytes ∧
      Memory.readRange (α := Byte) s.lmem lbase.toNat llen.toNat = .ok buffer ∧
      withBuffer lbase llen s next = next buffer) := by
  by_cases h : s.cfg.lmemBytes < lbase.toNat + llen.toNat
  · exact .inl ⟨h, by simp [withBuffer, h]⟩
  · cases hr : Memory.readRange (α := Byte) s.lmem lbase.toNat llen.toNat with
    | error i => exact .inr (.inl ⟨i, not_lt.1 h, rfl, by simp [withBuffer, h, hr]⟩)
    | ok buffer => exact .inr (.inr ⟨buffer, not_lt.1 h, rfl, by simp [withBuffer, h, hr]⟩)

/-- A line's outcome changes the location registers and the counters only (R257, R258). -/
theorem countLine_eq (s : State) (o : LineOutcome) :
    countLine s o = { s with
      loc := (countLine s o).loc, nmeaOk := (countLine s o).nmeaOk, nmeaBad := (countLine s o).nmeaBad,
      nmeaUnk := (countLine s o).nmeaUnk } := by
  cases o <;> rfl

/-- The fold over lines changes the location registers and the counters only (R257). -/
theorem foldLines_eq (lines : List (List Byte)) (s : State) :
    lines.foldl (fun s' line => countLine s' (decodeLine line)) s =
      { s with
        loc := (lines.foldl (fun s' line => countLine s' (decodeLine line)) s).loc
        nmeaOk := (lines.foldl (fun s' line => countLine s' (decodeLine line)) s).nmeaOk
        nmeaBad := (lines.foldl (fun s' line => countLine s' (decodeLine line)) s).nmeaBad
        nmeaUnk := (lines.foldl (fun s' line => countLine s' (decodeLine line)) s).nmeaUnk } := by
  induction lines generalizing s with
  | nil => rfl
  | cons l ls ih => rw [List.foldl_cons, ih]; cases decodeLine l <;> rfl

/-- The fold of a buffer changes the location registers and the counters only (R257). -/
theorem foldBuffer_eq (buffer : List Byte) (s : State) :
    foldBuffer buffer s = { s with
      loc := (foldBuffer buffer s).loc, nmeaOk := (foldBuffer buffer s).nmeaOk, nmeaBad := (foldBuffer buffer s).nmeaBad,
      nmeaUnk := (foldBuffer buffer s).nmeaUnk } := by
  unfold foldBuffer
  rw [foldLines_eq]; rfl

end Sys2Proof.Laws
end

