-- ==== Sys2Proof/Laws/Exec.lean ====
section
/-! SUPPORT. What one step of any command can do: the shared operation it is one call of, and the shapes of its next state. -/

namespace Sys2Proof.Laws

open Sys2Proof.Machine Sys2Proof.Safety

/-- Every command is one call of a shared operation (the families of R140, R190 and R240). -/
theorem exec_family (i : Instr) :
    (i = .nop) ∨ (∃ p addr val, ∀ s, exec i s = wrCmd p addr val s) ∨ (∃ p addr, ∀ s, exec i s = rdCmd p addr s) ∨
    (∃ p tbase tlen, p ≠ Port.tb ∧ ∀ s, exec i s = tblCmd p tbase tlen s) ∨
    (∃ p addr modify, ∀ s, exec i s = modifyCmd p addr modify s) ∨
    (∃ p addr bit, ∀ s, exec i s = getBitCmd p addr bit s) ∨ (i = .capture) ∨ (i = .deselect) ∨
    (∃ lbase llen, i = .nmeaLine lbase llen) ∨ (∃ lbase llen, i = .nmeaBuf lbase llen) := by
  cases i with
  | nop => exact .inl rfl
  | wrA8D8 a v => exact .inr (.inl ⟨.a8d8, a, v, fun _ => rfl⟩)
  | wrA16D8 a v => exact .inr (.inl ⟨.a16d8, a, v, fun _ => rfl⟩)
  | wrA8D16 a v => exact .inr (.inl ⟨.a8d16, a, v, fun _ => rfl⟩)
  | wrA16D16 a v => exact .inr (.inl ⟨.a16d16, a, v, fun _ => rfl⟩)
  | wrTB a v => exact .inr (.inl ⟨.tb, a, v, fun _ => rfl⟩)
  | rdA8D8 a => exact .inr (.inr (.inl ⟨.a8d8, a, fun _ => rfl⟩))
  | rdA16D8 a => exact .inr (.inr (.inl ⟨.a16d8, a, fun _ => rfl⟩))
  | rdA8D16 a => exact .inr (.inr (.inl ⟨.a8d16, a, fun _ => rfl⟩))
  | rdA16D16 a => exact .inr (.inr (.inl ⟨.a16d16, a, fun _ => rfl⟩))
  | rdTB a => exact .inr (.inr (.inl ⟨.tb, a, fun _ => rfl⟩))
  | tblA8D8 a v => exact .inr (.inr (.inr (.inl ⟨.a8d8, a, v, by decide, fun _ => rfl⟩)))
  | tblA16D8 a v => exact .inr (.inr (.inr (.inl ⟨.a16d8, a, v, by decide, fun _ => rfl⟩)))
  | tblA8D16 a v => exact .inr (.inr (.inr (.inl ⟨.a8d16, a, v, by decide, fun _ => rfl⟩)))
  | tblA16D16 a v => exact .inr (.inr (.inr (.inl ⟨.a16d16, a, v, by decide, fun _ => rfl⟩)))
  | setbA8D8 a b => exact .inr (.inr (.inr (.inr (.inl ⟨.a8d8, a, fun v => withBitSet v b, fun _ => rfl⟩))))
  | setbA16D8 a b => exact .inr (.inr (.inr (.inr (.inl ⟨.a16d8, a, fun v => withBitSet v b, fun _ => rfl⟩))))
  | setbA8D16 a b => exact .inr (.inr (.inr (.inr (.inl ⟨.a8d16, a, fun v => withBitSet v b, fun _ => rfl⟩))))
  | setbA16D16 a b => exact .inr (.inr (.inr (.inr (.inl ⟨.a16d16, a, fun v => withBitSet v b, fun _ => rfl⟩))))
  | setbTB a b => exact .inr (.inr (.inr (.inr (.inl ⟨.tb, a, fun v => withBitSet v b, fun _ => rfl⟩))))
  | clrbA8D8 a b => exact .inr (.inr (.inr (.inr (.inl ⟨.a8d8, a, fun v => withBitClear .a8d8 v b, fun _ => rfl⟩))))
  | clrbA16D8 a b => exact .inr (.inr (.inr (.inr (.inl ⟨.a16d8, a, fun v => withBitClear .a16d8 v b, fun _ => rfl⟩))))
  | clrbA8D16 a b => exact .inr (.inr (.inr (.inr (.inl ⟨.a8d16, a, fun v => withBitClear .a8d16 v b, fun _ => rfl⟩))))
  | clrbA16D16 a b => exact .inr (.inr (.inr (.inr (.inl ⟨.a16d16, a, fun v => withBitClear .a16d16 v b, fun _ => rfl⟩))))
  | clrbTB a b => exact .inr (.inr (.inr (.inr (.inl ⟨.tb, a, fun v => withBitClear .tb v b, fun _ => rfl⟩))))
  | getbA8D8 a b => exact .inr (.inr (.inr (.inr (.inr (.inl ⟨.a8d8, a, b, fun _ => rfl⟩)))))
  | getbA16D8 a b => exact .inr (.inr (.inr (.inr (.inr (.inl ⟨.a16d8, a, b, fun _ => rfl⟩)))))
  | getbA8D16 a b => exact .inr (.inr (.inr (.inr (.inr (.inl ⟨.a8d16, a, b, fun _ => rfl⟩)))))
  | getbA16D16 a b => exact .inr (.inr (.inr (.inr (.inr (.inl ⟨.a16d16, a, b, fun _ => rfl⟩)))))
  | getbTB a b => exact .inr (.inr (.inr (.inr (.inr (.inl ⟨.tb, a, b, fun _ => rfl⟩)))))
  | capture => simp
  | deselect => simp
  | nmeaLine l n => simp
  | nmeaBuf l n => simp

/-! ### The capture engine -/

/-- A change of the capture engine's own state only: its registers, CS_STATE, ABUF and the size bytes (R190 to R205). -/
def CaptureOnly (s u : State) : Prop :=
  u = { s with
    capState := u.capState, inFrame := u.inFrame, csState := u.csState, capLen := u.capLen, capRemain := u.capRemain,
    capCursor := u.capCursor, capPrev := u.capPrev, capCur := u.capCur, capOut := u.capOut, pollCount := u.pollCount,
    abuf := u.abuf, size1 := u.size1, size2 := u.size2 }

/-- The shapes of the next state of a step of CAPTURE: an error, the normal end, or one primitive and the program point after
it, each after a change of the capture engine's own state only. -/
def CaptureShape (s t : State) : Prop :=
  ∃ u, CaptureOnly s u ∧
    ((∃ e prim, t = raise e prim 0 u) ∨ t = finish .ok u ∨ (∃ p k, capturePoint k = true ∧ t = ask p k u) ∨
      (∃ p k, capturePoint k = true ∧ t = signal p k u) ∨
      (∃ bytes k, capturePoint k = true ∧ t = askSink bytes k u))

theorem CaptureOnly.refl (s : State) : CaptureOnly s s := rfl

theorem CaptureOnly.trans {s u v : State} (h : CaptureOnly s u) (h' : CaptureOnly u v) : CaptureOnly s v := by
  unfold CaptureOnly at *
  rw [h] at h'
  exact h'

theorem CaptureShape.of_captureOnly {s u t : State} (h : CaptureOnly s u) (h' : CaptureShape u t) : CaptureShape s t := by
  obtain ⟨v, hv, ht⟩ := h'
  exact ⟨v, h.trans hv, ht⟩

theorem shape_raise {s : State} (u : State) (e : ErrCode) (prim : PrimCode) (h : CaptureOnly s u) :
    CaptureShape s (raise e prim 0 u) := ⟨u, h, .inl ⟨e, prim, rfl⟩⟩

theorem shape_finish {s : State} (u : State) (h : CaptureOnly s u) : CaptureShape s (finish .ok u) :=
  ⟨u, h, .inr (.inl rfl)⟩

theorem shape_ask {s : State} (u : State) (p : Prim) (k : Point) (hk : capturePoint k = true) (h : CaptureOnly s u) :
    CaptureShape s (ask p k u) := ⟨u, h, .inr (.inr (.inl ⟨p, k, hk, rfl⟩))⟩

theorem shape_signal {s : State} (u : State) (p : Prim) (k : Point) (hk : capturePoint k = true) (h : CaptureOnly s u) :
    CaptureShape s (signal p k u) := ⟨u, h, .inr (.inr (.inr (.inl ⟨p, k, hk, rfl⟩)))⟩

theorem shape_askSink {s : State} (u : State) (bytes : List Byte) (k : Point) (hk : capturePoint k = true)
    (h : CaptureOnly s u) : CaptureShape s (askSink bytes k u) := ⟨u, h, .inr (.inr (.inr (.inr ⟨bytes, k, hk, rfl⟩)))⟩

theorem streamNext_shape (s : State) : CaptureShape s (streamNext s) := by
  rcases streamNext_cases s with ⟨-, h⟩ | ⟨-, h⟩ <;> rw [h]
  exacts [shape_signal s _ _ rfl rfl, shape_ask s _ _ rfl rfl]

theorem pollAgain_shape (s : State) : CaptureShape s (pollAgain s) := by
  rcases pollAgain_cases s with ⟨-, h⟩ | ⟨-, -, h⟩ | ⟨-, -, h⟩ <;> rw [h]
  exacts [shape_raise _ _ _ rfl, shape_raise _ _ _ rfl, shape_ask _ _ _ rfl rfl]

theorem openBurst_shape (s : State) : CaptureShape s (openBurst s) := by
  rcases openBurst_cases s with ⟨-, h⟩ | ⟨-, -, h⟩ | ⟨-, -, h⟩ <;> rw [h]
  exacts [shape_raise _ _ _ rfl, shape_raise _ _ _ rfl, shape_signal _ _ _ rfl rfl]

theorem flush_shape {n : Nat} {k : Point} {s t : State} (hk : capturePoint k = true) (h : flush n k s = .next t) :
    CaptureShape s t := by
  rcases flush_cases n k s with ⟨bytes, -, h'⟩ | ⟨i, -, h'⟩ <;> rw [h'] at h <;> cases h
  exact shape_askSink s _ _ hk rfl

theorem store_shape {site : StoreSite} {next : State → StepResult} {s t : State}
    (hn : ∀ u, next u = .next t → CaptureShape u t) (h : store site next s = .next t) : CaptureShape s t := by
  rcases store_cases site next s with ⟨-, h'⟩ | ⟨-, h'⟩ | ⟨-, h'⟩ <;> rw [h'] at h
  · cases h
    exact shape_signal s _ _ rfl rfl
  · cases h
  · refine .of_captureOnly ?_ (hn _ h)
    rfl

theorem afterData_shape {s t : State} (h : afterData s = .next t) : CaptureShape s t := by
  rcases afterData_cases s with ⟨-, -, h'⟩ | ⟨-, h'⟩ <;> rw [h'] at h
  · exact flush_shape rfl h
  · cases h
    exact streamNext_shape s

theorem afterStore_shape {site : StoreSite} {s t : State} (h : afterStore site s = .next t) : CaptureShape s t := by
  cases site with
  | startFF => exact store_shape (fun u hu => by cases hu; exact streamNext_shape u) h
  | startD8 => cases h; exact streamNext_shape s
  | data => exact afterData_shape h

theorem examineWindow_shape {s t : State} (h : examineWindow s = .next t) : CaptureShape s t := by
  rcases examineWindow_cases s with ⟨-, h'⟩ | ⟨-, -, -, h'⟩ | ⟨-, -, h'⟩ <;> rw [h'] at h
  · exact store_shape (fun u hu => afterData_shape hu) h
  · refine .of_captureOnly (u := { s with inFrame := true }) rfl (store_shape (fun u hu => ?_) h)
    exact store_shape (fun v hv => by cases hv; exact streamNext_shape v) hu
  · cases h
    exact streamNext_shape s

theorem afterRotBurst_shape {site : StoreSite} {s t : State} (h : afterRotBurst site s = .next t) : CaptureShape s t := by
  unfold afterRotBurst at h
  split at h
  · cases h
    exact shape_raise _ _ _ rfl
  · rcases putByte_cases (storeByte site s) s with ⟨-, h'⟩ | ⟨-, h'⟩ <;> rw [h'] at h
    · cases h
    · refine .of_captureOnly ?_ (afterStore_shape h)
      rfl

/-- Every step of CAPTURE that answers a next state has one of the shapes. -/
theorem capture_shape {s t : State} (h : exec .capture s = .next t) : CaptureShape s t := by
  simp only [exec, execCapture] at h
  split at h
  case h_9 =>
    unfold afterPull at h
    split at h
    · cases h
      exact shape_raise _ _ _ rfl
    · refine .of_captureOnly ?_ (examineWindow_shape h)
      rfl
  case h_10 =>
    refine .of_captureOnly ?_ (flush_shape rfl h)
    rfl
  case h_13 => exact afterRotBurst_shape h
  all_goals cases h
  case h_1 => unfold afterArmClear; split; exacts [shape_raise _ _ _ rfl, shape_ask s _ _ rfl rfl]
  case h_2 =>
    unfold afterArmStart; split
    exacts [shape_raise _ _ _ rfl, .of_captureOnly (u := { s with capState := .armed }) rfl (pollAgain_shape _)]
  case h_3 =>
    unfold afterPoll; split
    · exact shape_raise _ _ _ rfl
    · split
      exacts [shape_ask _ _ _ rfl rfl, pollAgain_shape s]
  case h_4 => unfold afterSize1; split; exacts [shape_raise _ _ _ rfl, shape_ask _ _ _ rfl rfl]
  case h_5 => unfold afterSize2; split; exacts [shape_raise _ _ _ rfl, shape_ask _ _ _ rfl rfl]
  case h_6 =>
    unfold afterSize3; split
    · exact shape_raise _ _ _ rfl
    · refine .of_captureOnly ?_ (openBurst_shape _)
      rfl
  case h_7 => exact shape_ask _ _ _ rfl rfl
  case h_8 => unfold afterBurstOpen; split; exacts [shape_raise _ _ _ rfl, streamNext_shape s]
  case h_11 => unfold afterRotFlush; split; exacts [shape_raise _ _ _ rfl, shape_signal _ _ _ rfl rfl]
  case h_12 => exact shape_ask _ _ _ rfl rfl
  case h_14 => unfold afterEofFlush; split; exacts [shape_raise _ _ _ rfl, shape_signal _ _ _ rfl rfl]
  case h_15 => exact shape_finish _ rfl
  case h_16 => exact shape_raise _ _ _ rfl
  case h_17 => unfold captureFirst; split; exacts [shape_raise s _ _ rfl, shape_ask _ _ _ rfl rfl]

/-! ### The register driver -/

/-- A change of RESULT, RMW_V, the draws, TI and TBL_COUNT only (R140). -/
def RegisterOnly (s u : State) : Prop :=
  u = { s with
    result := u.result, resultWritten := u.resultWritten, rmwV := u.rmwV, draws := u.draws, ti := u.ti,
    tblCount := u.tblCount }

/-- The program points of the register driver's commands after their first. -/
def registerPoint : Point → Bool
  | .delay | .written | .read => true
  | _ => false

/-- The primitives that access a register of one of the two buses (R86). -/
def registerAccess : Prim → Bool
  | .cbWrite _ _ _ _ | .cbRead _ _ _ | .tbWrite _ _ | .tbRead _ => true
  | _ => false

theorem registerAccess_writeCall (p : Port) (a v : Half) : registerAccess (writeCall p a v) = true := by cases p <;> rfl

theorem registerAccess_readCall (p : Port) (a : Half) : registerAccess (readCall p a) = true := by cases p <;> rfl

/-- The shapes of the next state of a step of the register driver: an error, the normal end, one bus primitive, or the delay. -/
def RegisterShape (s t : State) : Prop :=
  ∃ u, RegisterOnly s u ∧
    ((∃ e prim idx, t = raise e prim idx u) ∨ t = finish .ok u ∨
      (∃ p k, registerAccess p = true ∧ registerPoint k = true ∧ t = ask p k u) ∨ t = signal (.delayMs 1) .written u)

theorem portWrite_ask (p : Port) (a v : Half) (s : State) :
    ∃ k, registerPoint k = true ∧ portWrite p a v s = ask (writeCall p a v) k s := by
  unfold portWrite; cases hasDelay p
  · exact ⟨.written, rfl, rfl⟩
  · exact ⟨.delay, rfl, rfl⟩

theorem wrCmd_shape {p : Port} {a v : Half} {s t : State} (h : wrCmd p a v s = .next t) : RegisterShape s t := by
  rcases wrCmd_cases p a v s with ⟨_, h'⟩ | ⟨_, _, _, _, h'⟩ | ⟨_, _, _, _, h'⟩ | ⟨_, _, h'⟩ | ⟨_, _, _, h'⟩ | ⟨_, _, _, h'⟩
    <;> rw [h'] at h <;> cases h
  · exact ⟨s, rfl, .inr (.inl rfl)⟩
  · exact ⟨s, rfl, .inl ⟨_, _, _, rfl⟩⟩
  · obtain ⟨k, hk, e⟩ := portWrite_ask p a v s
    exact ⟨s, rfl, .inr (.inr (.inl ⟨_, k, registerAccess_writeCall .., hk, e⟩))⟩
  · exact ⟨s, rfl, .inr (.inr (.inr rfl))⟩
  · exact ⟨s, rfl, .inl ⟨_, _, _, rfl⟩⟩
  · exact ⟨s, rfl, .inr (.inl rfl)⟩

theorem rdCmd_shape {p : Port} {a : Half} {s t : State} (h : rdCmd p a s = .next t) : RegisterShape s t := by
  rcases rdCmd_cases p a s with ⟨_, h'⟩ | ⟨_, _, _, h'⟩ | ⟨_, _, _, h'⟩ | ⟨_, _, _, h'⟩ | ⟨v, _, _, _, h'⟩
    <;> rw [h'] at h <;> cases h
  · exact ⟨_, by rfl, .inr (.inl rfl)⟩
  · exact ⟨s, rfl, .inl ⟨_, _, _, rfl⟩⟩
  · exact ⟨s, rfl, .inr (.inr (.inl ⟨_, _, registerAccess_readCall .., rfl, rfl⟩))⟩
  · exact ⟨s, rfl, .inl ⟨_, _, _, rfl⟩⟩
  · exact ⟨_, by rfl, .inr (.inl rfl)⟩

theorem getBitCmd_shape {p : Port} {a : Half} {b : BitVec 4} {s t : State} (h : getBitCmd p a b s = .next t) :
    RegisterShape s t := by
  rcases getBitCmd_cases p a b s with ⟨_, h'⟩ | ⟨_, _, _, h'⟩ | ⟨_, _, _, h'⟩ | ⟨_, _, _, h'⟩ | ⟨v, _, _, _, h'⟩
    <;> rw [h'] at h <;> cases h
  · exact ⟨_, by rfl, .inr (.inl rfl)⟩
  · exact ⟨s, rfl, .inl ⟨_, _, _, rfl⟩⟩
  · exact ⟨s, rfl, .inr (.inr (.inl ⟨_, _, registerAccess_readCall .., rfl, rfl⟩))⟩
  · exact ⟨s, rfl, .inl ⟨_, _, _, rfl⟩⟩
  · exact ⟨_, by rfl, .inr (.inl rfl)⟩

theorem tableEntry_shape {p : Port} {a b : Half} {s t : State} (h : tableEntry p a b s = .next t) : RegisterShape s t := by
  rcases tableEntry_cases p a b s with ⟨_, h'⟩ | ⟨_, _, _, h'⟩ | ⟨e, _, _, _, _, h'⟩ | ⟨e, _, _, _, _, h'⟩
    <;> rw [h'] at h <;> cases h
  · exact ⟨s, rfl, .inl ⟨_, _, _, rfl⟩⟩
  · exact ⟨s, rfl, .inr (.inl rfl)⟩
  · obtain ⟨k, hk, e⟩ := portWrite_ask p (entryAddr e) (entryVal e) { s with tblCount := s.tblCount + 1 }
    exact ⟨_, by rfl, .inr (.inr (.inl ⟨_, k, registerAccess_writeCall .., hk, e⟩))⟩

theorem tblCmd_shape {p : Port} {a b : Half} {s t : State} (h : tblCmd p a b s = .next t) : RegisterShape s t := by
  rcases tblCmd_cases p a b s with ⟨_, h'⟩ | ⟨_, _, h'⟩ | ⟨_, _, _, h'⟩ | ⟨_, _, _, h'⟩ | ⟨_, _, _, h'⟩ <;> rw [h'] at h
  · cases h; exact ⟨_, by rfl, .inr (.inl rfl)⟩
  · cases h; exact ⟨s, rfl, .inr (.inr (.inr rfl))⟩
  · cases h;  exact ⟨s, rfl, .inl ⟨_, _, _, rfl⟩⟩
  · obtain ⟨u, hu, hh⟩ := tableEntry_shape h
    refine ⟨u, ?_, hh⟩
    unfold RegisterOnly at *; rw [hu]
  · obtain ⟨u, hu, hh⟩ := tableEntry_shape h
    refine ⟨u, ?_, hh⟩
    unfold RegisterOnly at *; rw [hu]

theorem modifyCmd_shape {p : Port} {a : Half} {m : Half → Half} {s t : State} (h : modifyCmd p a m s = .next t) :
    RegisterShape s t := by
  rcases modifyCmd_cases p a m s with
    ⟨_, h'⟩ | ⟨_, _, _, _, _, h'⟩ | ⟨_, _, _, _, _, h'⟩ | ⟨_, _, _, h'⟩ | ⟨v, _, _, _, h'⟩ | ⟨_, _, h'⟩ | ⟨_, _, _, h'⟩ | ⟨_, _, _, h'⟩
    <;> rw [h'] at h <;> cases h
  · exact ⟨_, by rfl, .inr (.inl rfl)⟩
  · exact ⟨s, rfl, .inl ⟨_, _, _, rfl⟩⟩
  · exact ⟨s, rfl, .inr (.inr (.inl ⟨_, _, registerAccess_readCall .., rfl, rfl⟩))⟩
  · exact ⟨s, rfl, .inl ⟨_, _, _, rfl⟩⟩
  · obtain ⟨k, hk, e⟩ := portWrite_ask p a (m v) { s with rmwV := v }
    exact ⟨_, by rfl, .inr (.inr (.inl ⟨_, k, registerAccess_writeCall .., hk, e⟩))⟩
  · exact ⟨s, rfl, .inr (.inr (.inr rfl))⟩
  · exact ⟨s, rfl, .inl ⟨_, _, _, rfl⟩⟩
  · exact ⟨s, rfl, .inr (.inl rfl)⟩

/-! ### The NMEA decoder -/

/-- A change of RESULT, the location registers and the counters only (R257, R258). -/
def DecoderOnly (s u : State) : Prop :=
  u = { s with
    result := u.result, resultWritten := u.resultWritten, loc := u.loc, nmeaOk := u.nmeaOk, nmeaBad := u.nmeaBad,
    nmeaUnk := u.nmeaUnk }

/-- A step of NMEA.LINE that answers a next state is RANGE_ERROR or the end of the line's decoding (R258). -/
theorem nmeaLine_shape {lbase llen : Half} {s t : State} (h : exec (.nmeaLine lbase llen) s = .next t) :
    t = raise .rangeError .none 0 s ∨ ∃ u e, DecoderOnly s u ∧ t = finish e u := by
  simp only [exec, execNmeaLine] at h
  rcases withBuffer_cases lbase llen s (fun buffer => .next (endLine (decodeLine (firstSegment buffer)) s)) with
    ⟨_, h'⟩ | ⟨i, _, _, h'⟩ | ⟨b, _, _, h'⟩ <;> rw [h'] at h <;> cases h
  · exact .inl rfl
  · refine .inr ⟨_, _, ?_, rfl⟩
    unfold DecoderOnly
    rw [countLine_eq]; rfl

/-- A step of NMEA.BUF that answers a next state is RANGE_ERROR or the end of the fold (R257). -/
theorem nmeaBuf_shape {lbase llen : Half} {s t : State} (h : exec (.nmeaBuf lbase llen) s = .next t) :
    t = raise .rangeError .none 0 s ∨ ∃ u, DecoderOnly s u ∧ t = finish .ok u := by
  simp only [exec, execNmeaBuf] at h
  rcases withBuffer_cases lbase llen s (fun buffer => .next (finish .ok (foldBuffer buffer s))) with
    ⟨_, h'⟩ | ⟨i, _, _, h'⟩ | ⟨b, _, _, h'⟩ <;> rw [h'] at h <;> cases h
  · exact .inl rfl
  · refine .inr ⟨_, ?_, rfl⟩
    unfold DecoderOnly
    rw [foldBuffer_eq]

/-- Every step of a command that answers a next state has the shape of its unit. -/
theorem exec_shape {i : Instr} {s t : State} (h : exec i s = .next t) :
    RegisterShape s t ∨ CaptureShape s t ∨ (s.pcSeq = .deselected ∧ t = finish .ok { s with csState := .deselected }) ∨
    t = signal .csDeassert .deselected s ∨ ∃ u e, DecoderOnly s u ∧ t = finish e u := by
  rcases exec_family i with rfl | ⟨p, a, v, hf⟩ | ⟨p, a, hf⟩ | ⟨p, a, b, _, hf⟩ | ⟨p, a, m, hf⟩ | ⟨p, a, b, hf⟩ | rfl | rfl |
    ⟨l, n, rfl⟩ | ⟨l, n, rfl⟩
  · cases h
    exact .inl ⟨s, rfl, .inr (.inl rfl)⟩
  · rw [hf] at h
    exact .inl (wrCmd_shape h)
  · rw [hf] at h
    exact .inl (rdCmd_shape h)
  · rw [hf] at h
    exact .inl (tblCmd_shape h)
  · rw [hf] at h
    exact .inl (modifyCmd_shape h)
  · rw [hf] at h
    exact .inl (getBitCmd_shape h)
  · exact .inr (.inl (capture_shape h))
  · simp only [exec] at h
    rcases execDeselect_cases s with ⟨hk, h'⟩ | ⟨_, h'⟩ <;> rw [h'] at h <;> cases h
    · exact .inr (.inr (.inl ⟨hk, rfl⟩))
    · exact .inr (.inr (.inr (.inl rfl)))
  · rcases nmeaLine_shape h with rfl | h'
    · exact .inl ⟨s, rfl, .inl ⟨_, _, _, rfl⟩⟩
    · exact .inr (.inr (.inr (.inr h')))
  · rcases nmeaBuf_shape h with rfl | ⟨u, hu, h'⟩
    · exact .inl ⟨s, rfl, .inl ⟨_, _, _, rfl⟩⟩
    · exact .inr (.inr (.inr (.inr ⟨u, _, hu, h'⟩)))

end Sys2Proof.Laws
end

