-- ==== Sys2Proof/Laws/Nmea.lean ====
section
/-! SUPPORT. For each function of the NMEA decoder one lemma that says what it answers, in the terms of R241 to R252 that
Sys2Proof/Safety.lean gives. -/

namespace Sys2Proof.Laws

open Sys2Proof Sys2Proof.Machine Sys2Proof.Safety

/-! ### Cutting a byte sequence (R241, R246) -/

theorem splitAtBytes_of_no_cut {cut : Byte → Bool} {piece : List Byte} (h : ∀ b ∈ piece, cut b = false) :
    splitAtBytes cut piece = [piece] := by
  induction piece with
  | nil => rfl
  | cons b bs ih => simp_all [splitAtBytes]

theorem splitAtBytes_append {cut : Byte → Bool} {piece : List Byte} {c : Byte} (rest : List Byte)
    (h : ∀ b ∈ piece, cut b = false) (hc : cut c = true) :
    splitAtBytes cut (piece ++ c :: rest) = piece :: splitAtBytes cut rest := by
  induction piece with
  | nil => simp [splitAtBytes, hc]
  | cons b bs ih => simp_all [splitAtBytes]

theorem splitAtBytes_ne_nil (cut : Byte → Bool) (bytes : List Byte) : splitAtBytes cut bytes ≠ [] := by
  cases bytes with
  | nil => simp [splitAtBytes]
  | cons b bs =>
    simp only [splitAtBytes]
    split
    · simp
    · split <;> simp

/-- Either the whole sequence is the one piece, or the first piece ends at a cut. -/
theorem splitAtBytes_cases (cut : Byte → Bool) (bytes : List Byte) :
    (splitAtBytes cut bytes = [bytes] ∧ ∀ b ∈ bytes, cut b = false) ∨
    ∃ piece c rest, bytes = piece ++ c :: rest ∧ cut c = true ∧ (∀ b ∈ piece, cut b = false) ∧
      splitAtBytes cut bytes = piece :: splitAtBytes cut rest := by
  induction bytes with
  | nil => exact .inl ⟨rfl, by simp⟩
  | cons b bs ih =>
    cases hb : cut b with
    | true => exact .inr ⟨[], b, bs, rfl, hb, by simp, by simp [splitAtBytes, hb]⟩
    | false =>
      obtain ⟨hs, hn⟩ | ⟨piece, c, rest, rfl, hc, hp, -⟩ := ih
      · exact .inl ⟨by simp [splitAtBytes, hb, hs], by simpa [hb] using hn⟩
      · have hp' : ∀ x ∈ b :: piece, cut x = false := by simpa [hb] using hp
        exact .inr ⟨b :: piece, c, rest, rfl, hc, hp', splitAtBytes_append rest hp' hc⟩

/-- Pieces without the separator, joined by it, are the pieces again. -/
theorem splitAtBytes_intercalate (sep : Byte) {pieces : List (List Byte)} (hne : pieces ≠ [])
    (h : ∀ p ∈ pieces, sep ∉ p) : splitAtBytes (· == sep) ([sep].intercalate pieces) = pieces := by
  have free : ∀ p ∈ pieces, ∀ b ∈ p, (b == sep) = false := fun p hp b hb => by
    simp only [beq_eq_false_iff_ne]
    rintro rfl
    exact h p hp hb
  induction pieces with
  | nil => exact absurd rfl hne
  | cons p ps ih =>
    cases ps with
    | nil => simpa [List.intercalate] using splitAtBytes_of_no_cut (free p (by simp))
    | cons q qs =>
      have := ih (by simp) (fun x hx => h x (by simp [hx])) (fun x hx => free x (by simp [hx]))
      rw [List.intercalate_cons_cons, List.append_assoc, List.singleton_append,
        splitAtBytes_append _ (free p (by simp)) (by simp), this]

/-! ### Numbers (R244, R248) -/

theorem all_isDigit {ds : List Byte} : ds.all isDigit = true ↔ AllDigits ds := by
  simp [AllDigits, isDigit]

theorem digitsValue_eq_decimal (ds : List Byte) : digitsValue ds = decimal ds := by
  induction ds using List.reverseRecOn with
  | nil => rfl
  | append_singleton ds d ih =>
    simp only [digitsValue, decimal] at *
    simp [List.foldl_append, ih, Nat.ofDigits_cons, add_comm]

theorem dot_not_digit {ds : List Byte} (h : AllDigits ds) : ∀ b ∈ ds, (b == 0x2E) = false := by
  intro b hb
  have := (h b hb).1
  simp only [beq_eq_false_iff_ne, ne_eq]
  rintro rfl
  simp at this

theorem parseUdec_eq_some {f : List Byte} {v : Rat} : parseUdec f = some v ↔ Udec f v := by
  constructor
  · intro h
    obtain ⟨hs, -⟩ | ⟨whole, c, rest, rfl, hc, -, hs⟩ := splitAtBytes_cases (· == 0x2E) f
    · unfold parseUdec at h
      rw [hs] at h
      dsimp only at h
      split at h
      · next hf =>
        cases h
        exact ⟨f, [], by simpa using all_isDigit.1 hf.2, by simpa using hf.1, .inl ⟨rfl, rfl⟩,
          by simp [digitsValue_eq_decimal]⟩
      · cases h
    · obtain ⟨hs', -⟩ | ⟨p2, c2, r2, -, -, -, hs'⟩ := splitAtBytes_cases (· == 0x2E) rest
      · unfold parseUdec at h
        rw [hs, hs'] at h
        dsimp only at h
        split at h
        · next hf =>
          cases h
          obtain rfl : c = 0x2E := by simpa using hc
          exact ⟨whole, rest, all_isDigit.1 hf.2, hf.1, .inr rfl, by
            simp [digitsValue_eq_decimal, Rat.mkRat_eq_div]⟩
        · cases h
      · obtain ⟨q, qs, hq⟩ := List.exists_cons_of_ne_nil (splitAtBytes_ne_nil (· == 0x2E) r2)
        unfold parseUdec at h
        rw [hs, hs', hq] at h
        cases h
  · rintro ⟨whole, part, hd, hne, ⟨rfl, rfl⟩ | rfl, rfl⟩
    · simp only [List.append_nil] at hd hne
      unfold parseUdec
      rw [splitAtBytes_of_no_cut (dot_not_digit hd)]
      dsimp only
      rw [if_pos ⟨hne, all_isDigit.2 hd⟩]
      simp [digitsValue_eq_decimal]
    · have hw : AllDigits whole := fun b hb => hd b (by simp [hb])
      have hp : AllDigits part := fun b hb => hd b (by simp [hb])
      have hcut : splitAtBytes (· == 0x2E) (whole ++ 0x2E :: part) = [whole, part] := by
        rw [splitAtBytes_append part (dot_not_digit hw) (by decide), splitAtBytes_of_no_cut (dot_not_digit hp)]
      unfold parseUdec
      rw [hcut]
      dsimp only
      rw [if_pos ⟨hne, all_isDigit.2 hd⟩]
      simp [digitsValue_eq_decimal, Rat.mkRat_eq_div]

theorem not_udec_minus {rest : List Byte} {v : Rat} : ¬Udec (0x2D :: rest) v := by
  rintro ⟨whole, part, hd, hne, ⟨rfl, rfl⟩ | h, -⟩
  · have := (hd 0x2D (by simp)).1
    simp at this
  · cases whole with
    | nil => simp at h
    | cons b bs =>
      obtain ⟨rfl, -⟩ := List.cons.inj h
      have := (hd 0x2D (by simp)).1
      simp at this

theorem parseSdec_eq_some {f : List Byte} {v : Rat} : parseSdec f = some v ↔ Sdec f v := by
  unfold parseSdec
  split
  · next rest =>
    simp only [Option.map_eq_some_iff, parseUdec_eq_some]
    constructor
    · rintro ⟨w, hw, rfl⟩
      exact .inr ⟨rest, w, rfl, hw, rfl⟩
    · rintro (h | ⟨_, w, e, hw, rfl⟩)
      · exact absurd h not_udec_minus
      · cases e
        exact ⟨w, hw, rfl⟩
  · next hf =>
    rw [parseUdec_eq_some]
    exact ⟨.inl, fun h => h.elim id (fun ⟨rest, _, e, _⟩ => absurd e (hf rest))⟩

theorem parseUint_eq_some {f : List Byte} {n : Nat} : parseUint f = some n ↔ Uint f n := by
  unfold parseUint Uint
  rw [digitsValue_eq_decimal, ← all_isDigit]
  split
  · next h =>
    rw [Option.some.injEq]
    exact ⟨fun e => ⟨h.1, h.2, e.symm⟩, fun g => g.2.2.symm⟩
  · next h => simp only [reduceCtorEq, false_iff]; exact fun g => h ⟨g.1, g.2.1⟩

theorem optionalField_eq_some {α : Type} {parse : List Byte → Option α} {grammar : List Byte → α → Prop}
    (h : ∀ f v, parse f = some v ↔ grammar f v) {f : List Byte} {o : Option α} :
    optionalField parse f = some o ↔ OptionalOf grammar f o := by
  unfold optionalField OptionalOf
  split
  · next hf => simp [hf, eq_comm]
  · next hf => simp [hf, h, eq_comm]

theorem parseSign_eq_some {f : List Byte} {plus minus : Byte} {sign : Sign} (hne : plus ≠ minus) :
    parseSign f plus minus = some sign ↔ Hemisphere plus minus f sign := by
  unfold parseSign Hemisphere
  split
  · simp [eq_comm]
  · next b =>
    simp only [reduceCtorEq, false_and, false_or, List.cons.injEq, and_true]
    by_cases hp : b = plus
    · subst hp
      simp [hne, eq_comm]
    · by_cases hm : b = minus
      · subst hm
        simp [hp, eq_comm]
      · simp [hp, hm]
  · next h1 h2 =>
    simp only [reduceCtorEq, false_iff]
    rintro (⟨rfl, -⟩ | ⟨rfl, -⟩ | ⟨rfl, -⟩)
    · exact h1 rfl
    · exact h2 _ rfl
    · exact h2 _ rfl

theorem hexValue_eq_some {b : Byte} {v : Nat} : hexValue b = some v ↔ HexDigit b v := by
  unfold hexValue HexDigit
  split
  · simp only [Option.some.injEq]; omega
  · split
    · simp only [Option.some.injEq]; omega
    · split
      · simp only [Option.some.injEq]; omega
      · simp only [reduceCtorEq, false_iff]; omega

/-! ### Lines (R242 to R252) -/

theorem not_star {body : List Byte} (h : starByte ∉ body) : ∀ b ∈ body, (b != starByte) = true := by
  intro b hb
  simp only [bne_iff_ne]
  rintro rfl
  exact h hb

theorem lineBody_append {body : List Byte} (after : List Byte) (h : starByte ∉ body) :
    lineBody (body ++ starByte :: after) = body := by
  simp [lineBody, List.takeWhile_append_of_pos (not_star h)]

theorem afterStar_append {body : List Byte} (after : List Byte) (h : starByte ∉ body) :
    afterStar (body ++ starByte :: after) = after := by
  simp [afterStar, List.dropWhile_append_of_pos (not_star h)]

theorem sentChecksum_append {body : List Byte} (after : List Byte) (n : Nat) (h : starByte ∉ body) :
    sentChecksum (body ++ starByte :: after) = some n ↔ SendsChecksum after n := by
  unfold sentChecksum SendsChecksum
  rw [afterStar_append after h]
  split
  · next h1 h2 rest =>
    constructor
    · intro hv
      split at hv
      · next v1 v2 e1 e2 =>
        exact ⟨h1, h2, rest, v1, v2, rfl, hexValue_eq_some.1 e1, hexValue_eq_some.1 e2, (Option.some.inj hv).symm⟩
      · cases hv
    · rintro ⟨a, b, c, v1, v2, e, d1, d2, rfl⟩
      obtain ⟨rfl, rfl, rfl⟩ : h1 = a ∧ h2 = b ∧ rest = c := by simpa using e
      simp [hexValue_eq_some.2 d1, hexValue_eq_some.2 d2]
  · next hno =>
    simp only [reduceCtorEq, false_iff]
    rintro ⟨a, b, c, _, _, rfl, -⟩
    exact hno a b c rfl

theorem checksumMatches_append {body : List Byte} (after : List Byte) (h : starByte ∉ body) :
    checksumMatches (body ++ starByte :: after) = true ↔ SendsChecksum after (bodySum body).toNat := by
  rw [← sentChecksum_append after _ h]
  simp [checksumMatches, checksum, lineBody_append after h, bodySum]

theorem parseCoord_eq_some {f : List Byte} {sign : Sign} {o : Option Coord} :
    (optionalField parseUdec f).map (fun x => x.map fun v => (⟨magnitude v, sign⟩ : Coord)) = some o ↔
      OptionalOf (CoordOf sign) f o := by
  simp only [Option.map_eq_some_iff, optionalField_eq_some (fun _ _ => parseUdec_eq_some), OptionalOf, CoordOf]
  constructor
  · rintro ⟨x, ⟨hf, rfl⟩ | ⟨hf, v, hv, rfl⟩, rfl⟩
    · exact .inl ⟨hf, rfl⟩
    · exact .inr ⟨hf, _, ⟨v, hv, rfl⟩, rfl⟩
  · rintro (⟨hf, rfl⟩ | ⟨hf, _, ⟨v, hv, rfl⟩, rfl⟩)
    · exact ⟨none, .inl ⟨hf, rfl⟩, rfl⟩
    · exact ⟨some v, .inr ⟨hf, v, hv, rfl⟩, rfl⟩

/-- The update that the fields give, if none of the used ones is malformed (R251, R252). -/
theorem updateOf_eq_some {kind : Kind} {fs : List (List Byte)} {u : Loc} :
    updateOf kind fs = some u ↔ UpdateOf kind fs u := by
  cases kind with
  | gga =>
    simp only [updateOf, ggaUpdate, UpdateOf, ← parseSign_eq_some (by decide : (0x4E : Byte) ≠ 0x53),
      ← parseSign_eq_some (by decide : (0x45 : Byte) ≠ 0x57), ← parseCoord_eq_some,
      ← optionalField_eq_some (fun _ _ => parseUint_eq_some), ← optionalField_eq_some (fun _ _ => parseSdec_eq_some),
      Option.bind_eq_bind, Option.bind_eq_some_iff, Option.pure_def, Option.some.injEq, Option.map_eq_some_iff]
    constructor
    · rintro ⟨a, ha, b, hb, c, hc, d, hd, e, he, f, hf, g, hg, rfl⟩
      exact ⟨a, b, ha, hb, ⟨c, hc, rfl⟩, ⟨d, hd, rfl⟩, he, hf, hg, rfl, rfl⟩
    · rintro ⟨a, b, ha, hb, ⟨c, hc, h1⟩, ⟨d, hd, h2⟩, he, hf, hg, h3, h4⟩
      refine ⟨a, ha, b, hb, c, hc, d, hd, _, he, _, hf, _, hg, ?_⟩
      cases u
      simp_all
  | rmc =>
    simp only [updateOf, rmcUpdate, UpdateOf, ← optionalField_eq_some (fun _ _ => parseUdec_eq_some),
      Option.bind_eq_bind, Option.bind_eq_some_iff, Option.pure_def, Option.some.injEq]
    constructor
    · rintro ⟨a, ha, b, hb, rfl⟩
      exact ⟨ha, hb, rfl, rfl, rfl, rfl, rfl⟩
    · rintro ⟨ha, hb, h1, h2, h3, h4, h5⟩
      refine ⟨_, ha, _, hb, ?_⟩
      cases u
      simp_all

end Sys2Proof.Laws
end

