-- ==== Sys2Proof/Laws/PerInstr.lean ====
section
/-! SUPPORT. The family of statements made for each instruction: a well-formed command's descriptor stands in its own row of the
opcode map (R120), whatever its operands. -/

namespace Sys2Proof.Laws

/-- Masking an assembled descriptor masks each field by its part of the mask (R111). -/
theorem assemble_and (opc : Byte) (port : BitVec 3) (bit mb : BitVec 4) (addr ma val mv : Half) :
    assemble opc port bit addr val &&& (0xFFFF#16 ++ mv ++ ma ++ mb ++ 1#1 ++ 7#3 ++ 0xFF#8 : Desc) =
      assemble opc port (bit &&& mb) (addr &&& ma) (val &&& mv) := by
  have h8 : opc &&& 0xFF#8 = opc := by rw [show (0xFF#8) = BitVec.allOnes 8 from rfl, BitVec.and_allOnes]
  have h3 : port &&& 7#3 = port := by rw [show (7#3) = BitVec.allOnes 3 from rfl, BitVec.and_allOnes]
  have h : (0#16 ++ val ++ addr ++ bit ++ 0#1 ++ port ++ opc) &&& (0xFFFF#16 ++ mv ++ ma ++ mb ++ 1#1 ++ 7#3 ++ 0xFF#8) =
      0#16 ++ (val &&& mv) ++ (addr &&& ma) ++ (bit &&& mb) ++ 0#1 ++ port ++ opc := by
    simp only [BitVec.and_append, BitVec.zero_and, h8, h3]
  exact h

/-- A command's mnemonic, as the opcode table writes it (R120). -/
def mnemonicOf : Instr → String
  | .nop => "NOP"
  | .wrA8D8 _ _ => "WR.A8D8"
  | .wrA16D8 _ _ => "WR.A16D8"
  | .wrA8D16 _ _ => "WR.A8D16"
  | .wrA16D16 _ _ => "WR.A16D16"
  | .wrTB _ _ => "WR.TB"
  | .rdA8D8 _ => "RD.A8D8"
  | .rdA16D8 _ => "RD.A16D8"
  | .rdA8D16 _ => "RD.A8D16"
  | .rdA16D16 _ => "RD.A16D16"
  | .rdTB _ => "RD.TB"
  | .tblA8D8 _ _ => "TBL.A8D8"
  | .tblA16D8 _ _ => "TBL.A16D8"
  | .tblA8D16 _ _ => "TBL.A8D16"
  | .tblA16D16 _ _ => "TBL.A16D16"
  | .setbA8D8 _ _ => "SETB.A8D8"
  | .setbA16D8 _ _ => "SETB.A16D8"
  | .setbA8D16 _ _ => "SETB.A8D16"
  | .setbA16D16 _ _ => "SETB.A16D16"
  | .setbTB _ _ => "SETB.TB"
  | .clrbA8D8 _ _ => "CLRB.A8D8"
  | .clrbA16D8 _ _ => "CLRB.A16D8"
  | .clrbA8D16 _ _ => "CLRB.A8D16"
  | .clrbA16D16 _ _ => "CLRB.A16D16"
  | .clrbTB _ _ => "CLRB.TB"
  | .getbA8D8 _ _ => "GETB.A8D8"
  | .getbA16D8 _ _ => "GETB.A16D8"
  | .getbA8D16 _ _ => "GETB.A8D16"
  | .getbA16D16 _ _ => "GETB.A16D16"
  | .getbTB _ _ => "GETB.TB"
  | .capture => "CAPTURE"
  | .deselect => "DESELECT"
  | .nmeaLine _ _ => "NMEA.LINE"
  | .nmeaBuf _ _ => "NMEA.BUF"

/-- A bit index below 8 has its top bit clear (R114). -/
theorem low_bit_index {b : BitVec 4} (h : b.toNat ≤ 7) : b &&& 8#4 = 0#4 := by revert h; revert b; decide

/-- The row of its mnemonic matches a well-formed command's descriptor (R117, R120). -/
def EncodesTableRow.Statement (i : Instr) : Prop :=
  i.wellFormed = true → ∃ r ∈ opcodeRows, r.mnemonic = mnemonicOf i ∧ r.covers (encode i) = true

theorem EncodesTableRow.nop : EncodesTableRow.Statement .nop := by
  intro _
  refine ⟨⟨"NOP", 0x0000000000000000, 0xFFFFFFFFFFFFFFFF⟩, by decide, rfl, ?_⟩
  rw [TableRow.covers, show (0xFFFFFFFFFFFFFFFF : Desc) = 0xFFFF#16 ++ 0xffff#16 ++ 0xffff#16 ++ 0xf#4 ++ 1#1 ++ 7#3 ++ 0xFF#8 from rfl,
    encode, assemble_and]
  simp
  decide

theorem EncodesTableRow.wrA8D8 (a v : Half) : EncodesTableRow.Statement (.wrA8D8 a v) := by
  intro _
  refine ⟨⟨"WR.A8D8", 0x0000000000000001, 0xFFFF00000000FFFF⟩, by decide, rfl, ?_⟩
  rw [TableRow.covers, show (0xFFFF00000000FFFF : Desc) = 0xFFFF#16 ++ 0x0#16 ++ 0x0#16 ++ 0xf#4 ++ 1#1 ++ 7#3 ++ 0xFF#8 from rfl,
    encode, assemble_and]
  simp
  decide

theorem EncodesTableRow.wrA16D8 (a v : Half) : EncodesTableRow.Statement (.wrA16D8 a v) := by
  intro _
  refine ⟨⟨"WR.A16D8", 0x0000000000000101, 0xFFFF00000000FFFF⟩, by decide, rfl, ?_⟩
  rw [TableRow.covers, show (0xFFFF00000000FFFF : Desc) = 0xFFFF#16 ++ 0x0#16 ++ 0x0#16 ++ 0xf#4 ++ 1#1 ++ 7#3 ++ 0xFF#8 from rfl,
    encode, assemble_and]
  simp
  decide

theorem EncodesTableRow.wrA8D16 (a v : Half) : EncodesTableRow.Statement (.wrA8D16 a v) := by
  intro _
  refine ⟨⟨"WR.A8D16", 0x0000000000000201, 0xFFFF00000000FFFF⟩, by decide, rfl, ?_⟩
  rw [TableRow.covers, show (0xFFFF00000000FFFF : Desc) = 0xFFFF#16 ++ 0x0#16 ++ 0x0#16 ++ 0xf#4 ++ 1#1 ++ 7#3 ++ 0xFF#8 from rfl,
    encode, assemble_and]
  simp
  decide

theorem EncodesTableRow.wrA16D16 (a v : Half) : EncodesTableRow.Statement (.wrA16D16 a v) := by
  intro _
  refine ⟨⟨"WR.A16D16", 0x0000000000000301, 0xFFFF00000000FFFF⟩, by decide, rfl, ?_⟩
  rw [TableRow.covers, show (0xFFFF00000000FFFF : Desc) = 0xFFFF#16 ++ 0x0#16 ++ 0x0#16 ++ 0xf#4 ++ 1#1 ++ 7#3 ++ 0xFF#8 from rfl,
    encode, assemble_and]
  simp
  decide

theorem EncodesTableRow.wrTB (a v : Half) : EncodesTableRow.Statement (.wrTB a v) := by
  intro _
  refine ⟨⟨"WR.TB", 0x0000000000000401, 0xFFFF00000000FFFF⟩, by decide, rfl, ?_⟩
  rw [TableRow.covers, show (0xFFFF00000000FFFF : Desc) = 0xFFFF#16 ++ 0x0#16 ++ 0x0#16 ++ 0xf#4 ++ 1#1 ++ 7#3 ++ 0xFF#8 from rfl,
    encode, assemble_and]
  simp
  decide

theorem EncodesTableRow.rdA8D8 (a : Half) : EncodesTableRow.Statement (.rdA8D8 a) := by
  intro _
  refine ⟨⟨"RD.A8D8", 0x0000000000000002, 0xFFFFFFFF0000FFFF⟩, by decide, rfl, ?_⟩
  rw [TableRow.covers, show (0xFFFFFFFF0000FFFF : Desc) = 0xFFFF#16 ++ 0xffff#16 ++ 0x0#16 ++ 0xf#4 ++ 1#1 ++ 7#3 ++ 0xFF#8 from rfl,
    encode, assemble_and]
  simp
  decide

theorem EncodesTableRow.rdA16D8 (a : Half) : EncodesTableRow.Statement (.rdA16D8 a) := by
  intro _
  refine ⟨⟨"RD.A16D8", 0x0000000000000102, 0xFFFFFFFF0000FFFF⟩, by decide, rfl, ?_⟩
  rw [TableRow.covers, show (0xFFFFFFFF0000FFFF : Desc) = 0xFFFF#16 ++ 0xffff#16 ++ 0x0#16 ++ 0xf#4 ++ 1#1 ++ 7#3 ++ 0xFF#8 from rfl,
    encode, assemble_and]
  simp
  decide

theorem EncodesTableRow.rdA8D16 (a : Half) : EncodesTableRow.Statement (.rdA8D16 a) := by
  intro _
  refine ⟨⟨"RD.A8D16", 0x0000000000000202, 0xFFFFFFFF0000FFFF⟩, by decide, rfl, ?_⟩
  rw [TableRow.covers, show (0xFFFFFFFF0000FFFF : Desc) = 0xFFFF#16 ++ 0xffff#16 ++ 0x0#16 ++ 0xf#4 ++ 1#1 ++ 7#3 ++ 0xFF#8 from rfl,
    encode, assemble_and]
  simp
  decide

theorem EncodesTableRow.rdA16D16 (a : Half) : EncodesTableRow.Statement (.rdA16D16 a) := by
  intro _
  refine ⟨⟨"RD.A16D16", 0x0000000000000302, 0xFFFFFFFF0000FFFF⟩, by decide, rfl, ?_⟩
  rw [TableRow.covers, show (0xFFFFFFFF0000FFFF : Desc) = 0xFFFF#16 ++ 0xffff#16 ++ 0x0#16 ++ 0xf#4 ++ 1#1 ++ 7#3 ++ 0xFF#8 from rfl,
    encode, assemble_and]
  simp
  decide

theorem EncodesTableRow.rdTB (a : Half) : EncodesTableRow.Statement (.rdTB a) := by
  intro _
  refine ⟨⟨"RD.TB", 0x0000000000000402, 0xFFFFFFFF0000FFFF⟩, by decide, rfl, ?_⟩
  rw [TableRow.covers, show (0xFFFFFFFF0000FFFF : Desc) = 0xFFFF#16 ++ 0xffff#16 ++ 0x0#16 ++ 0xf#4 ++ 1#1 ++ 7#3 ++ 0xFF#8 from rfl,
    encode, assemble_and]
  simp
  decide

theorem EncodesTableRow.tblA8D8 (a v : Half) : EncodesTableRow.Statement (.tblA8D8 a v) := by
  intro _
  refine ⟨⟨"TBL.A8D8", 0x0000000000000003, 0xFFFF00000000FFFF⟩, by decide, rfl, ?_⟩
  rw [TableRow.covers, show (0xFFFF00000000FFFF : Desc) = 0xFFFF#16 ++ 0x0#16 ++ 0x0#16 ++ 0xf#4 ++ 1#1 ++ 7#3 ++ 0xFF#8 from rfl,
    encode, assemble_and]
  simp
  decide

theorem EncodesTableRow.tblA16D8 (a v : Half) : EncodesTableRow.Statement (.tblA16D8 a v) := by
  intro _
  refine ⟨⟨"TBL.A16D8", 0x0000000000000103, 0xFFFF00000000FFFF⟩, by decide, rfl, ?_⟩
  rw [TableRow.covers, show (0xFFFF00000000FFFF : Desc) = 0xFFFF#16 ++ 0x0#16 ++ 0x0#16 ++ 0xf#4 ++ 1#1 ++ 7#3 ++ 0xFF#8 from rfl,
    encode, assemble_and]
  simp
  decide

theorem EncodesTableRow.tblA8D16 (a v : Half) : EncodesTableRow.Statement (.tblA8D16 a v) := by
  intro _
  refine ⟨⟨"TBL.A8D16", 0x0000000000000203, 0xFFFF00000000FFFF⟩, by decide, rfl, ?_⟩
  rw [TableRow.covers, show (0xFFFF00000000FFFF : Desc) = 0xFFFF#16 ++ 0x0#16 ++ 0x0#16 ++ 0xf#4 ++ 1#1 ++ 7#3 ++ 0xFF#8 from rfl,
    encode, assemble_and]
  simp
  decide

theorem EncodesTableRow.tblA16D16 (a v : Half) : EncodesTableRow.Statement (.tblA16D16 a v) := by
  intro _
  refine ⟨⟨"TBL.A16D16", 0x0000000000000303, 0xFFFF00000000FFFF⟩, by decide, rfl, ?_⟩
  rw [TableRow.covers, show (0xFFFF00000000FFFF : Desc) = 0xFFFF#16 ++ 0x0#16 ++ 0x0#16 ++ 0xf#4 ++ 1#1 ++ 7#3 ++ 0xFF#8 from rfl,
    encode, assemble_and]
  simp
  decide

theorem EncodesTableRow.setbA8D8 (a : Half) (b : BitVec 4) : EncodesTableRow.Statement (.setbA8D8 a b) := by
  intro h
  have hb : b &&& 8#4 = 0#4 := by exact low_bit_index (by simpa [Instr.wellFormed] using h)
  refine ⟨⟨"SETB.A8D8", 0x0000000000000004, 0xFFFFFFFF00008FFF⟩, by decide, rfl, ?_⟩
  rw [TableRow.covers, show (0xFFFFFFFF00008FFF : Desc) = 0xFFFF#16 ++ 0xffff#16 ++ 0x0#16 ++ 0x8#4 ++ 1#1 ++ 7#3 ++ 0xFF#8 from rfl,
    encode, assemble_and]
  simp [hb]
  decide

theorem EncodesTableRow.setbA16D8 (a : Half) (b : BitVec 4) : EncodesTableRow.Statement (.setbA16D8 a b) := by
  intro h
  have hb : b &&& 8#4 = 0#4 := by exact low_bit_index (by simpa [Instr.wellFormed] using h)
  refine ⟨⟨"SETB.A16D8", 0x0000000000000104, 0xFFFFFFFF00008FFF⟩, by decide, rfl, ?_⟩
  rw [TableRow.covers, show (0xFFFFFFFF00008FFF : Desc) = 0xFFFF#16 ++ 0xffff#16 ++ 0x0#16 ++ 0x8#4 ++ 1#1 ++ 7#3 ++ 0xFF#8 from rfl,
    encode, assemble_and]
  simp [hb]
  decide

theorem EncodesTableRow.setbA8D16 (a : Half) (b : BitVec 4) : EncodesTableRow.Statement (.setbA8D16 a b) := by
  intro _
  refine ⟨⟨"SETB.A8D16", 0x0000000000000204, 0xFFFFFFFF00000FFF⟩, by decide, rfl, ?_⟩
  rw [TableRow.covers, show (0xFFFFFFFF00000FFF : Desc) = 0xFFFF#16 ++ 0xffff#16 ++ 0x0#16 ++ 0x0#4 ++ 1#1 ++ 7#3 ++ 0xFF#8 from rfl,
    encode, assemble_and]
  simp
  decide

theorem EncodesTableRow.setbA16D16 (a : Half) (b : BitVec 4) : EncodesTableRow.Statement (.setbA16D16 a b) := by
  intro _
  refine ⟨⟨"SETB.A16D16", 0x0000000000000304, 0xFFFFFFFF00000FFF⟩, by decide, rfl, ?_⟩
  rw [TableRow.covers, show (0xFFFFFFFF00000FFF : Desc) = 0xFFFF#16 ++ 0xffff#16 ++ 0x0#16 ++ 0x0#4 ++ 1#1 ++ 7#3 ++ 0xFF#8 from rfl,
    encode, assemble_and]
  simp
  decide

theorem EncodesTableRow.setbTB (a : Half) (b : BitVec 4) : EncodesTableRow.Statement (.setbTB a b) := by
  intro h
  have hb : b &&& 8#4 = 0#4 := by exact low_bit_index (by simpa [Instr.wellFormed] using h)
  refine ⟨⟨"SETB.TB", 0x0000000000000404, 0xFFFFFFFF00008FFF⟩, by decide, rfl, ?_⟩
  rw [TableRow.covers, show (0xFFFFFFFF00008FFF : Desc) = 0xFFFF#16 ++ 0xffff#16 ++ 0x0#16 ++ 0x8#4 ++ 1#1 ++ 7#3 ++ 0xFF#8 from rfl,
    encode, assemble_and]
  simp [hb]
  decide

theorem EncodesTableRow.clrbA8D8 (a : Half) (b : BitVec 4) : EncodesTableRow.Statement (.clrbA8D8 a b) := by
  intro h
  have hb : b &&& 8#4 = 0#4 := by exact low_bit_index (by simpa [Instr.wellFormed] using h)
  refine ⟨⟨"CLRB.A8D8", 0x0000000000000005, 0xFFFFFFFF00008FFF⟩, by decide, rfl, ?_⟩
  rw [TableRow.covers, show (0xFFFFFFFF00008FFF : Desc) = 0xFFFF#16 ++ 0xffff#16 ++ 0x0#16 ++ 0x8#4 ++ 1#1 ++ 7#3 ++ 0xFF#8 from rfl,
    encode, assemble_and]
  simp [hb]
  decide

theorem EncodesTableRow.clrbA16D8 (a : Half) (b : BitVec 4) : EncodesTableRow.Statement (.clrbA16D8 a b) := by
  intro h
  have hb : b &&& 8#4 = 0#4 := by exact low_bit_index (by simpa [Instr.wellFormed] using h)
  refine ⟨⟨"CLRB.A16D8", 0x0000000000000105, 0xFFFFFFFF00008FFF⟩, by decide, rfl, ?_⟩
  rw [TableRow.covers, show (0xFFFFFFFF00008FFF : Desc) = 0xFFFF#16 ++ 0xffff#16 ++ 0x0#16 ++ 0x8#4 ++ 1#1 ++ 7#3 ++ 0xFF#8 from rfl,
    encode, assemble_and]
  simp [hb]
  decide

theorem EncodesTableRow.clrbA8D16 (a : Half) (b : BitVec 4) : EncodesTableRow.Statement (.clrbA8D16 a b) := by
  intro _
  refine ⟨⟨"CLRB.A8D16", 0x0000000000000205, 0xFFFFFFFF00000FFF⟩, by decide, rfl, ?_⟩
  rw [TableRow.covers, show (0xFFFFFFFF00000FFF : Desc) = 0xFFFF#16 ++ 0xffff#16 ++ 0x0#16 ++ 0x0#4 ++ 1#1 ++ 7#3 ++ 0xFF#8 from rfl,
    encode, assemble_and]
  simp
  decide

theorem EncodesTableRow.clrbA16D16 (a : Half) (b : BitVec 4) : EncodesTableRow.Statement (.clrbA16D16 a b) := by
  intro _
  refine ⟨⟨"CLRB.A16D16", 0x0000000000000305, 0xFFFFFFFF00000FFF⟩, by decide, rfl, ?_⟩
  rw [TableRow.covers, show (0xFFFFFFFF00000FFF : Desc) = 0xFFFF#16 ++ 0xffff#16 ++ 0x0#16 ++ 0x0#4 ++ 1#1 ++ 7#3 ++ 0xFF#8 from rfl,
    encode, assemble_and]
  simp
  decide

theorem EncodesTableRow.clrbTB (a : Half) (b : BitVec 4) : EncodesTableRow.Statement (.clrbTB a b) := by
  intro h
  have hb : b &&& 8#4 = 0#4 := by exact low_bit_index (by simpa [Instr.wellFormed] using h)
  refine ⟨⟨"CLRB.TB", 0x0000000000000405, 0xFFFFFFFF00008FFF⟩, by decide, rfl, ?_⟩
  rw [TableRow.covers, show (0xFFFFFFFF00008FFF : Desc) = 0xFFFF#16 ++ 0xffff#16 ++ 0x0#16 ++ 0x8#4 ++ 1#1 ++ 7#3 ++ 0xFF#8 from rfl,
    encode, assemble_and]
  simp [hb]
  decide

theorem EncodesTableRow.getbA8D8 (a : Half) (b : BitVec 4) : EncodesTableRow.Statement (.getbA8D8 a b) := by
  intro h
  have hb : b &&& 8#4 = 0#4 := by exact low_bit_index (by simpa [Instr.wellFormed] using h)
  refine ⟨⟨"GETB.A8D8", 0x0000000000000006, 0xFFFFFFFF00008FFF⟩, by decide, rfl, ?_⟩
  rw [TableRow.covers, show (0xFFFFFFFF00008FFF : Desc) = 0xFFFF#16 ++ 0xffff#16 ++ 0x0#16 ++ 0x8#4 ++ 1#1 ++ 7#3 ++ 0xFF#8 from rfl,
    encode, assemble_and]
  simp [hb]
  decide

theorem EncodesTableRow.getbA16D8 (a : Half) (b : BitVec 4) : EncodesTableRow.Statement (.getbA16D8 a b) := by
  intro h
  have hb : b &&& 8#4 = 0#4 := by exact low_bit_index (by simpa [Instr.wellFormed] using h)
  refine ⟨⟨"GETB.A16D8", 0x0000000000000106, 0xFFFFFFFF00008FFF⟩, by decide, rfl, ?_⟩
  rw [TableRow.covers, show (0xFFFFFFFF00008FFF : Desc) = 0xFFFF#16 ++ 0xffff#16 ++ 0x0#16 ++ 0x8#4 ++ 1#1 ++ 7#3 ++ 0xFF#8 from rfl,
    encode, assemble_and]
  simp [hb]
  decide

theorem EncodesTableRow.getbA8D16 (a : Half) (b : BitVec 4) : EncodesTableRow.Statement (.getbA8D16 a b) := by
  intro _
  refine ⟨⟨"GETB.A8D16", 0x0000000000000206, 0xFFFFFFFF00000FFF⟩, by decide, rfl, ?_⟩
  rw [TableRow.covers, show (0xFFFFFFFF00000FFF : Desc) = 0xFFFF#16 ++ 0xffff#16 ++ 0x0#16 ++ 0x0#4 ++ 1#1 ++ 7#3 ++ 0xFF#8 from rfl,
    encode, assemble_and]
  simp
  decide

theorem EncodesTableRow.getbA16D16 (a : Half) (b : BitVec 4) : EncodesTableRow.Statement (.getbA16D16 a b) := by
  intro _
  refine ⟨⟨"GETB.A16D16", 0x0000000000000306, 0xFFFFFFFF00000FFF⟩, by decide, rfl, ?_⟩
  rw [TableRow.covers, show (0xFFFFFFFF00000FFF : Desc) = 0xFFFF#16 ++ 0xffff#16 ++ 0x0#16 ++ 0x0#4 ++ 1#1 ++ 7#3 ++ 0xFF#8 from rfl,
    encode, assemble_and]
  simp
  decide

theorem EncodesTableRow.getbTB (a : Half) (b : BitVec 4) : EncodesTableRow.Statement (.getbTB a b) := by
  intro h
  have hb : b &&& 8#4 = 0#4 := by exact low_bit_index (by simpa [Instr.wellFormed] using h)
  refine ⟨⟨"GETB.TB", 0x0000000000000406, 0xFFFFFFFF00008FFF⟩, by decide, rfl, ?_⟩
  rw [TableRow.covers, show (0xFFFFFFFF00008FFF : Desc) = 0xFFFF#16 ++ 0xffff#16 ++ 0x0#16 ++ 0x8#4 ++ 1#1 ++ 7#3 ++ 0xFF#8 from rfl,
    encode, assemble_and]
  simp [hb]
  decide

theorem EncodesTableRow.capture : EncodesTableRow.Statement .capture := by
  intro _
  refine ⟨⟨"CAPTURE", 0x0000000000000010, 0xFFFFFFFFFFFFFFFF⟩, by decide, rfl, ?_⟩
  rw [TableRow.covers, show (0xFFFFFFFFFFFFFFFF : Desc) = 0xFFFF#16 ++ 0xffff#16 ++ 0xffff#16 ++ 0xf#4 ++ 1#1 ++ 7#3 ++ 0xFF#8 from rfl,
    encode, assemble_and]
  simp
  decide

theorem EncodesTableRow.deselect : EncodesTableRow.Statement .deselect := by
  intro _
  refine ⟨⟨"DESELECT", 0x0000000000000011, 0xFFFFFFFFFFFFFFFF⟩, by decide, rfl, ?_⟩
  rw [TableRow.covers, show (0xFFFFFFFFFFFFFFFF : Desc) = 0xFFFF#16 ++ 0xffff#16 ++ 0xffff#16 ++ 0xf#4 ++ 1#1 ++ 7#3 ++ 0xFF#8 from rfl,
    encode, assemble_and]
  simp
  decide

theorem EncodesTableRow.nmeaLine (a v : Half) : EncodesTableRow.Statement (.nmeaLine a v) := by
  intro _
  refine ⟨⟨"NMEA.LINE", 0x0000000000000020, 0xFFFF00000000FFFF⟩, by decide, rfl, ?_⟩
  rw [TableRow.covers, show (0xFFFF00000000FFFF : Desc) = 0xFFFF#16 ++ 0x0#16 ++ 0x0#16 ++ 0xf#4 ++ 1#1 ++ 7#3 ++ 0xFF#8 from rfl,
    encode, assemble_and]
  simp
  decide

theorem EncodesTableRow.nmeaBuf (a v : Half) : EncodesTableRow.Statement (.nmeaBuf a v) := by
  intro _
  refine ⟨⟨"NMEA.BUF", 0x0000000000000021, 0xFFFF00000000FFFF⟩, by decide, rfl, ?_⟩
  rw [TableRow.covers, show (0xFFFF00000000FFFF : Desc) = 0xFFFF#16 ++ 0x0#16 ++ 0x0#16 ++ 0xf#4 ++ 1#1 ++ 7#3 ++ 0xFF#8 from rfl,
    encode, assemble_and]
  simp
  decide

end Sys2Proof.Laws
end

