-- ==== Sys2Proof/Laws/Run.lean ====
section
/-! SUPPORT. Runs of several steps. -/

namespace Sys2Proof.Laws

open Sys2Proof.Machine Sys2Proof.Safety

@[simp] theorem runSteps_zero (s : State) : runSteps 0 s = .next s := rfl

/-- A run goes on from the state its first step answers. -/
theorem runSteps_next {s t : State} (h : step s = .next t) (n : Nat) : runSteps (n + 1) s = runSteps n t := by
  have h' : Sys2Proof.core.step s = _ := h
  simp only [runSteps, Host.Core.run, h']
  rfl

/-- A run ends with its first step's fault. -/
theorem runSteps_fault {s : State} {r : Fault} (h : step s = .fault r) (n : Nat) : runSteps (n + 1) s = .fault r := by
  have h' : Sys2Proof.core.step s = _ := h
  simp only [runSteps, Host.Core.run, h']
  rfl

/-- A run ends with its first step's refusal. -/
theorem runSteps_refused {s : State} {r : Refusal} (h : step s = .refused r) (n : Nat) :
    runSteps (n + 1) s = .refused r := by
  have h' : Sys2Proof.core.step s = _ := h
  simp only [runSteps, Host.Core.run, h']
  rfl

/-- A state that steps to itself is the end of every run from it. -/
theorem runSteps_stay {s : State} (h : step s = .next s) (n : Nat) : runSteps n s = .next s := by
  induction n with
  | zero => rfl
  | succ n ih => rw [runSteps_next h, ih]

/-- A run of `m + n` steps is a run of `n` steps from the state a run of `m` steps reaches. -/
theorem runSteps_add {m : Nat} {s t : State} (h : runSteps m s = .next t) (n : Nat) :
    runSteps (m + n) s = runSteps n t := by
  induction m generalizing s with
  | zero => cases h; rw [Nat.zero_add]
  | succ m ih =>
    rw [Nat.add_right_comm]
    cases hs : step s with
    | next u =>
      rw [runSteps_next hs] at h ⊢
      exact ih h
    | fault r => rw [runSteps_fault hs] at h; cases h
    | refused r => rw [runSteps_refused hs] at h; cases h

end Sys2Proof.Laws
end

