-- ==== Sys2Proof/Tests/Slice0.lean ====
section
/-! SUPPORT. Tests of single definitions and single steps, with expected results from the spec's encodings and from the vectors of
95_test_vectors.md, and for every obligation with hypotheses a concrete state that meets them. -/

namespace Sys2Proof.Tests

open Sys2Proof Sys2Proof.Machine Sys2Proof.Safety

/-! ### Helpers -/

/-- Configuration C0 of 95_test_vectors.md with the capture registers of its listing C0-I9, and some
placement by the platform. -/
def c0 : Params := ⟨2, 0x7FFFFE, 7, 15, 255, 0x04, 0x01, 0x02, 0x41, 7, 0x42, 0x43, 0x44, 0x40000000⟩

/-- The reset state under C0. -/
def idle : State := { State.reset with cfg := c0 }

/-- A busy block at a program point, with the last answer and the next answers given. -/
def busyAt (k : Point) (a : Answer) (next : List Answer) : State :=
  { idle with busy := true, pcSeq := k, ans := a, answers := next }

/-- A step answers a next state with a property. -/
def nextHas (o : StepResult) (p : State → Bool) : Bool :=
  match o with
  | .next t => p t
  | _ => false

theorem next_of_nextHas {o : StepResult} {p : State → Bool} (h : nextHas o p = true) : ∃ t, o = .next t ∧ p t = true := by
  cases o with
  | next t => exact ⟨t, rfl, h⟩
  | fault r => cases h
  | refused r => cases h

/-- LMEM holding bytes from address 0 on. -/
def lmemOf (bytes : List Byte) : List Host.Cell := bytes.zipIdx.map fun x => (x.2, x.1)

/-! ### WellFormed: each check refuses a bit index of 8 on an 8-bit data port (R114) and accepts 7 -/

theorem test_wellFormed_setbA8D8 : (Instr.setbA8D8 0 8).wellFormed = false ∧ (Instr.setbA8D8 0 7).wellFormed = true := by
  decide
theorem test_wellFormed_setbA16D8 : (Instr.setbA16D8 0 8).wellFormed = false ∧ (Instr.setbA16D8 0 7).wellFormed = true := by
  decide
theorem test_wellFormed_setbTB : (Instr.setbTB 0 8).wellFormed = false ∧ (Instr.setbTB 0 7).wellFormed = true := by decide
theorem test_wellFormed_clrbA8D8 : (Instr.clrbA8D8 0 15).wellFormed = false ∧ (Instr.clrbA8D8 0 7).wellFormed = true := by
  decide
theorem test_wellFormed_clrbA16D8 : (Instr.clrbA16D8 0 8).wellFormed = false ∧ (Instr.clrbA16D8 0 7).wellFormed = true := by
  decide
theorem test_wellFormed_clrbTB : (Instr.clrbTB 0 8).wellFormed = false ∧ (Instr.clrbTB 0 7).wellFormed = true := by decide
theorem test_wellFormed_getbA8D8 : (Instr.getbA8D8 0 8).wellFormed = false ∧ (Instr.getbA8D8 0 7).wellFormed = true := by
  decide
theorem test_wellFormed_getbA16D8 : (Instr.getbA16D8 0 8).wellFormed = false ∧ (Instr.getbA16D8 0 7).wellFormed = true := by
  decide
theorem test_wellFormed_getbTB : (Instr.getbTB 0 15).wellFormed = false ∧ (Instr.getbTB 0 7).wellFormed = true := by decide
theorem test_wellFormed_wide : (Instr.setbA8D16 0 15).wellFormed = true ∧ (Instr.getbA16D16 0 15).wellFormed = true := by decide

/-! ### Decode: one word for every constructor, written out from R111, R113 and R120 (vectors E, D, T, K and N where cited) -/

/-- E1, K1, K17 and the NMEA examples of R258 and E17, N35. -/
theorem test_decode_plain :
    decode 0x0000000000000000 = .ok .nop ∧
    decode 0x0000000000000010 = .ok .capture ∧
    decode 0x0000000000000011 = .ok .deselect ∧
    decode 0x00000048000A0020 = .ok (.nmeaLine 10 72) ∧
    decode 0x0000003900C80021 = .ok (.nmeaBuf 200 57) := by decide

/-- E2, E3, D5, D6, D7. -/
theorem test_decode_wr :
    decode 0x0000003400120001 = .ok (.wrA8D8 0x12 0x34) ∧
    decode 0x0000008030080101 = .ok (.wrA16D8 0x3008 0x80) ∧
    decode 0x0000BEEF00120201 = .ok (.wrA8D16 0x12 0xBEEF) ∧
    decode 0x0000BEEF12340301 = .ok (.wrA16D16 0x1234 0xBEEF) ∧
    decode 0x0000008001070401 = .ok (.wrTB 0x107 0x80) := by decide

/-- D8, D9, D11, the example of R158, D12. -/
theorem test_decode_rd :
    decode 0x00000000000A0002 = .ok (.rdA8D8 0x0A) ∧
    decode 0x00000000300A0102 = .ok (.rdA16D8 0x300A) ∧
    decode 0x00000000000A0202 = .ok (.rdA8D16 0x0A) ∧
    decode 0x00000000300A0302 = .ok (.rdA16D16 0x300A) ∧
    decode 0x0000000000410402 = .ok (.rdTB 0x41) := by decide

/-- T7, T2, T10; TBL.A8D16 by R111 with PORT 2. -/
theorem test_decode_tbl :
    decode 0x0000000A000E0003 = .ok (.tblA8D8 14 10) ∧
    decode 0x0000006400040103 = .ok (.tblA16D8 4 100) ∧
    decode 0x0000000300070203 = .ok (.tblA8D16 7 3) ∧
    decode 0x0000000300070303 = .ok (.tblA16D16 7 3) := by decide

/-- D15, D22, D14; the other ports by R111. -/
theorem test_decode_setb :
    decode 0x0000000000127004 = .ok (.setbA8D8 0x12 7) ∧
    decode 0x0000000038200104 = .ok (.setbA16D8 0x3820 0) ∧
    decode 0x000000000012F204 = .ok (.setbA8D16 0x12 15) ∧
    decode 0x000000001234A304 = .ok (.setbA16D16 0x1234 10) ∧
    decode 0x0000000000031404 = .ok (.setbTB 0x03 1) := by decide

/-- D16, D18; the other ports by R111. -/
theorem test_decode_clrb :
    decode 0x0000000000FF7005 = .ok (.clrbA8D8 0xFF 7) ∧
    decode 0x0000000030085105 = .ok (.clrbA16D8 0x3008 5) ∧
    decode 0x000000000012E205 = .ok (.clrbA8D16 0x12 14) ∧
    decode 0x000000001234B305 = .ok (.clrbA16D16 0x1234 11) ∧
    decode 0x0000000000034405 = .ok (.clrbTB 0x03 4) := by decide

/-- D20, D21, D19; the other ports by R111. -/
theorem test_decode_getb :
    decode 0x0000000000126006 = .ok (.getbA8D8 0x12 6) ∧
    decode 0x00000000300A0106 = .ok (.getbA16D8 0x300A 0) ∧
    decode 0x0000000000128206 = .ok (.getbA8D16 0x12 8) ∧
    decode 0x000000000000F306 = .ok (.getbA16D16 0x0000 15) ∧
    decode 0x0000000000413406 = .ok (.getbTB 0x41 3) := by decide

/-- E4, E5, E6, E8, E9, E10, E11, E12, E13, E14, E18. -/
theorem test_decode_illegal :
    decode 0x0000000000000503 = .error .badPort ∧ decode 0x0000000000000403 = .error .badPort ∧
    decode 0x0000000000008004 = .error .bitOutOfRange ∧ decode 0x0000000100000002 = .error .valNotZero ∧
    decode 0x0001000000000001 = .error .reservedField ∧ decode 0x0000000000000801 = .error .reservedField ∧
    decode 0x0000000000010010 = .error .addrNotZero ∧ decode 0x0000000000000007 = .error .reservedOpcode ∧
    decode 0x0000000000000110 = .error .badPort ∧ decode 0x0000000000001001 = .error .bitNotZero ∧
    decode 0x0000000000000221 = .error .badPort := by decide

/-- The 64-bit descriptor is numbered as the table numbers it; bits from `nbits` upward count as zero. -/
theorem test_decodeTableWord :
    decodeTableWord 64 0x0000008030080101 = some (.wrA16D8 0x3008 0x80) ∧ decodeTableWord 16 0x10001 = some (.wrA8D8 0 0) ∧
    decodeTableWord 64 0x0000000000000403 = none := by decide

/-- E2, D14: the encoder writes the spec's words. -/
theorem test_encode :
    encode (.wrA8D8 0x12 0x34) = 0x0000003400120001 ∧ encode (.setbTB 0x03 1) = 0x0000000000031404 ∧
    encode (.nmeaBuf 200 57) = 0x0000003900C80021 := by decide

/-! ### One step of each command -/

/-- D1. -/
theorem test_nop : nextHas (exec .nop (busyAt .start (.ok 0) []))
    (fun t => t.busy == false && t.err == .ok && t.hist == []) = true := by decide

/-- D2: address and value are masked to 8 bits. -/
theorem test_wrA8D8 : nextHas (exec (.wrA8D8 0x1234 0xFF00) (busyAt .start (.ok 0) [.ok 0]))
    (fun t => t.hist == [⟨.cbWrite .w8 .w8 0x34 0x00, .ok 0⟩]) = true := by decide

/-- D3. -/
theorem test_wrA16D8 : nextHas (exec (.wrA16D8 0x3008 0x1FF) (busyAt .start (.ok 0) [.ok 0]))
    (fun t => t.hist == [⟨.cbWrite .w16 .w8 0x3008 0xFF, .ok 0⟩]) = true := by decide

/-- D4: the delay follows a failed write. -/
theorem test_wrA16D8_delay : nextHas (exec (.wrA16D8 0x3008 0x80) (busyAt .delay .err []))
    (fun t => t.hist == [⟨.delayMs 1, .ok 0⟩] && t.busy) = true := by decide

/-- D5. -/
theorem test_wrA8D16 : nextHas (exec (.wrA8D16 0x12 0xBEEF) (busyAt .start (.ok 0) []))
    (fun t => t.hist == [] && !t.busy && t.err == .ok) = true := by decide

/-- D6. -/
theorem test_wrA16D16 : nextHas (exec (.wrA16D16 0x1234 0xBEEF) (busyAt .start (.ok 0) []))
    (fun t => t.hist == [] && !t.busy && t.err == .ok) = true := by decide

/-- D7. -/
theorem test_wrTB : nextHas (exec (.wrTB 0x107 0x80) (busyAt .start (.ok 0) [.ok 0]))
    (fun t => t.hist == [⟨.tbWrite 0x07 0x80, .ok 0⟩]) = true := by decide

/-- D8. -/
theorem test_rdA8D8 : nextHas (exec (.rdA8D8 0x0A) (busyAt .read (.ok 0x26) []))
    (fun t => t.result == 0x0026 && t.err == .ok && !t.busy) = true := by decide

/-- D10. -/
theorem test_rdA16D8_err : nextHas (exec (.rdA16D8 0x300A) (busyAt .read .err []))
    (fun t => t.err == .busError && errInfoWord t == 2 && !t.resultWritten) = true := by decide

/-- D11: no event. -/
theorem test_rdA8D16 : nextHas (exec (.rdA8D16 0x0A) (busyAt .start (.ok 0) []))
    (fun t => t.hist == [] && t.resultWritten && t.err == .ok) = true := by decide

/-- The example of R158: no event. -/
theorem test_rdA16D16 : nextHas (exec (.rdA16D16 0x300A) (busyAt .start (.ok 0) []))
    (fun t => t.hist == [] && t.resultWritten && t.err == .ok) = true := by decide

/-- D12. -/
theorem test_rdTB : nextHas (exec (.rdTB 0x41) (busyAt .start (.ok 0) [.ok 0x08]))
    (fun t => t.hist == [⟨.tbRead 0x41, .ok 0x08⟩]) = true := by decide

/-- T8: an entry that masks to the A8D8 sentinel ends the table. -/
theorem test_tblA8D8 :
    nextHas (exec (.tblA8D8 0 2) { busyAt .start (.ok 0) [] with tmem := [(0, 0x00FF12FF), (1, 0x00010001)] })
      (fun t => t.tblCount == 0 && t.err == .ok && !t.busy) = true := by decide

/-- T9: address 0xFFFF with value 0x01 is not the A16D8 sentinel. -/
theorem test_tblA16D8 :
    nextHas (exec (.tblA16D8 0 2) { busyAt .start (.ok 0) [.ok 0] with tmem := [(0, 0x0001FFFF), (1, 0x00FFFFFF)] })
      (fun t => t.hist == [⟨.cbWrite .w16 .w8 0xFFFF 0x01, .ok 0⟩] && t.tblCount == 1) = true := by decide

/-- T4: RANGE_ERROR before any read. -/
theorem test_tblA8D8_range : nextHas (exec (.tblA8D8 0 0) (busyAt .start (.ok 0) []))
    (fun t => t.err == .rangeError && errInfoWord t == 0) = true := by decide

/-- R153: an inert table reads nothing and clears TBL_COUNT. -/
theorem test_tblA8D16 : nextHas (exec (.tblA8D16 7 3) { busyAt .start (.ok 0) [] with tblCount := 9 })
    (fun t => t.hist == [] && t.tblCount == 0 && t.err == .ok) = true := by decide

/-- T10. -/
theorem test_tblA16D16 : nextHas (exec (.tblA16D16 7 3) { busyAt .start (.ok 0) [] with tblCount := 9 })
    (fun t => t.hist == [] && t.tblCount == 0 && t.err == .ok) = true := by decide

/-- R160, R161. -/
theorem test_setbA8D8 : nextHas (exec (.setbA8D8 0x12 7) (busyAt .read (.ok 0x01) [.ok 0]))
    (fun t => t.hist == [⟨.cbWrite .w8 .w8 0x12 0x81, .ok 0⟩]) = true := by decide

/-- D15: a bit already set is written back. -/
theorem test_setbA16D8 : nextHas (exec (.setbA16D8 0x3820 0) (busyAt .read (.ok 0x47) [.ok 0]))
    (fun t => t.hist == [⟨.cbWrite .w16 .w8 0x3820 0x47, .ok 0⟩]) = true := by decide

/-- D22. -/
theorem test_setbA8D16 : nextHas (exec (.setbA8D16 0x12 15) (busyAt .start (.ok 0) []))
    (fun t => t.hist == [] && t.err == .ok && !t.busy) = true := by decide

/-- R160: inert. -/
theorem test_setbA16D16 : nextHas (exec (.setbA16D16 0x1234 10) (busyAt .start (.ok 0) []))
    (fun t => t.hist == [] && t.err == .ok && !t.busy) = true := by decide

/-- D14. -/
theorem test_setbTB : nextHas (exec (.setbTB 0x03 1) (busyAt .read (.ok 0x10) [.ok 0]))
    (fun t => t.hist == [⟨.tbWrite 0x03 0x12, .ok 0⟩] && !t.resultWritten) = true := by decide

/-- D16. -/
theorem test_clrbA8D8 : nextHas (exec (.clrbA8D8 0xFF 7) (busyAt .read (.ok 0x81) [.ok 0]))
    (fun t => t.hist == [⟨.cbWrite .w8 .w8 0xFF 0x01, .ok 0⟩]) = true := by decide

/-- D17 on the other active control-bus port: a failed read issues no write. -/
theorem test_clrbA16D8 : nextHas (exec (.clrbA16D8 0x3008 7) (busyAt .read .err []))
    (fun t => t.hist == [] && t.err == .busError && errInfoWord t == 2) = true := by decide

/-- R160: inert. -/
theorem test_clrbA8D16 : nextHas (exec (.clrbA8D16 0x12 14) (busyAt .start (.ok 0) []))
    (fun t => t.hist == [] && t.err == .ok && !t.busy) = true := by decide

/-- R160: inert. -/
theorem test_clrbA16D16 : nextHas (exec (.clrbA16D16 0x1234 11) (busyAt .start (.ok 0) []))
    (fun t => t.hist == [] && t.err == .ok && !t.busy) = true := by decide

/-- D18: the write's failure. -/
theorem test_clrbTB : nextHas (exec (.clrbTB 0x03 4) (busyAt .written .err []))
    (fun t => t.err == .busError && errInfoWord t == 3) = true := by decide

/-- R163. -/
theorem test_getbA8D8 : nextHas (exec (.getbA8D8 0x12 6) (busyAt .read (.ok 0x40) []))
    (fun t => t.result == 1 && t.err == .ok) = true := by decide

/-- D20. -/
theorem test_getbA16D8 : nextHas (exec (.getbA16D8 0x300A 0) (busyAt .read (.ok 0x56) []))
    (fun t => t.result == 0 && t.hist == [] && !t.busy) = true := by decide

/-- R160: inert. -/
theorem test_getbA8D16 : nextHas (exec (.getbA8D16 0x12 8) (busyAt .start (.ok 0) []))
    (fun t => t.hist == [] && t.resultWritten && t.err == .ok) = true := by decide

/-- D21. -/
theorem test_getbA16D16 : nextHas (exec (.getbA16D16 0 15) (busyAt .start (.ok 0) []))
    (fun t => t.hist == [] && t.resultWritten && t.err == .ok) = true := by decide

/-- D19. -/
theorem test_getbTB : nextHas (exec (.getbTB 0x41 3) (busyAt .read (.ok 0x08) []))
    (fun t => t.result == 1 && t.err == .ok) = true := by decide

/-- K5: the third size byte 0xFF gives the length 0x7FFFFF, which overflows. -/
theorem test_capture_length :
    nextHas (exec .capture { busyAt .size3 (.ok 0xFF) [] with size1 := 0xFF, size2 := 0xFF, capState := .streaming })
      (fun t => t.err == .bufferOverflow && t.capLen == 0x7FFFFF && statusWord t == 0x30) = true := by decide

/-- K2: 0xD9 after 0xFF inside a frame flushes `[D9]` when the buffer was rotated before it. -/
theorem test_capture_endOfFrame :
    nextHas (exec .capture { busyAt (.rotBurst .data) (.ok 0) [.ok 0] with
        capPrev := 0xFF, capCur := 0xD9, inFrame := true, csState := .asserted, capRemain := 1 })
      (fun t => t.hist == [⟨.sinkWrite [0xD9], .ok 0⟩] && t.sink == [0xD9] && t.pcSeq == .eofFlushed) = true := by
  decide

/-- K17: the event is issued from CS_STATE UNKNOWN. -/
theorem test_deselect : nextHas (exec .deselect { busyAt .start (.ok 0) [] with csState := .unknown })
    (fun t => t.hist == [⟨.csDeassert, .ok 0⟩]) = true := by decide

/-- N27 as NMEA.LINE: `*00` is an unknown sentence. -/
theorem test_nmeaLine : nextHas (exec (.nmeaLine 0 3) { busyAt .start (.ok 0) [] with lmem := lmemOf [0x2A, 0x30, 0x30] })
    (fun t => t.err == .unknownSentence && t.result == 0 && t.nmeaUnk == 1) = true := by decide

/-- N21: `$GPRMC,,,,,,,.5,5.*4B`. -/
def rmcLine : List Byte :=
  [0x24, 0x47, 0x50, 0x52, 0x4D, 0x43, 0x2C, 0x2C, 0x2C, 0x2C, 0x2C, 0x2C, 0x2C, 0x2E, 0x35, 0x2C, 0x35, 0x2E, 0x2A, 0x34, 0x42]

/-- N19: `$GPGGA,1,,,,,,,,*4B`. -/
def ggaLine : List Byte :=
  [0x24, 0x47, 0x50, 0x47, 0x47, 0x41, 0x2C, 0x31, 0x2C, 0x2C, 0x2C, 0x2C, 0x2C, 0x2C, 0x2C, 0x2C, 0x2A, 0x34, 0x42]

/-- N21 and N38: a final unterminated RMC line gives speed 1/2 and course 5. -/
theorem test_nmeaBuf : nextHas (exec (.nmeaBuf 0 21) { busyAt .start (.ok 0) [] with lmem := lmemOf rmcLine })
    (fun t => t.err == .ok && t.nmeaOk == 1 && t.loc.spd == some (1 / 2) && t.loc.crs == some 5 && !t.resultWritten) = true := by
  decide +kernel

/-- N1: a longitude field `01131.000` is 691/60 degrees, and W1: `4916.45` is 59129/1200. -/
theorem test_magnitude : magnitude (1131 : Rat) = 691 / 60 ∧ magnitude (491645 / 100 : Rat) = 59129 / 1200 := by decide +kernel

/-- X5 and X8: a reserved register index and STATUS after reset read 0. -/
theorem test_hostRead :
    (hostAct (.readReg 22) idle).hostData = some (.word 0) ∧ (hostAct (.readReg 2) idle).hostData = some (.word 0) := by
  decide

/-! ### Witnesses: a concrete state and operands that meet the hypotheses of each obligation, for each of its clauses -/

/-- A CAPTURE inside a frame, two bytes stored, 0xFF last, and 0xD9 just pulled. -/
def inFrameState : State :=
  { busyAt .pulled (.ok 0xD9) [.ok 0] with
    cmdLast := 0x10, curCmd := 0x10, capState := .streaming, csState := .asserted, inFrame := true, capLen := 9,
    capRemain := 5, capCursor := 2, capPrev := 0xD8, capCur := 0xFF, abuf := [(0, 0xFF), (1, 0xD8)]
    hist := [⟨.csAssert, .ok 0⟩, ⟨.burstBegin, .ok 0⟩, ⟨.xfer 0x00, .ok 0xD9⟩] }

/-- A CAPTURE inside a frame with ABUF full. -/
def fullState : State :=
  { inFrameState with capCursor := 4, abuf := [(0, 0xFF), (1, 0xD8), (2, 0x01), (3, 0xFF)] }

/-- A WR.A16D8 that stands before its delay. -/
def delayState : State :=
  { busyAt .delay (.ok 0) [] with
    cmdLast := 0x0000008030080101, curCmd := 0x0000008030080101, hist := [⟨.cbWrite .w16 .w8 0x3008 0x80, .ok 0⟩] }

theorem test_witness_DecodeUndoesEncode : (Instr.setbA8D8 0xFFFF 7).wellFormed = true ∧ Instr.capture.wellFormed = true := by decide

theorem test_witness_DecoderReadsExactlyLegal : legal 0x0000000000127004 = true ∧
    decode 0x0000000000127004 = .ok (.setbA8D8 0x12 7) ∧ legal 0x0000000000008004 = false := by decide

theorem test_witness_StepRunsDecodedCommand :
    (let s := busyAt .start (.ok 0) []; s.busy = true ∧ decode s.curCmd = .ok .nop ∧ s.inputs = []) ∧
    (let s := { busyAt .start (.ok 0) [] with inputs := [.sequencer] }
     s.busy = true ∧ decode s.curCmd = .ok .nop ∧ s.inputs = .sequencer :: []) ∧
    (idle.busy = false ∧ idle.inputs = []) ∧
    (let s := { idle with inputs := [.sequencer] }; s.busy = false ∧ s.inputs = .sequencer :: []) ∧
    (let s := { idle with inputs := [.host .reset] }; s.inputs = .host .reset :: []) := by decide

theorem test_witness_FetchWordStepRunsCommand : (Instr.tblA16D8 4 100).wellFormed = true := by decide

/-- A step that ends a command, and one that performs a primitive. -/
theorem test_witness_OnePrimitivePerStep :
    (∃ t, exec .nop (busyAt .start (.ok 0) []) = .next t ∧ (t.hist == [] && !t.busy) = true) ∧
    (∃ t, exec .deselect (busyAt .start (.ok 0) []) = .next t ∧ (t.hist.length == 1 && t.busy) = true) :=
  ⟨next_of_nextHas (by decide), next_of_nextHas (by decide)⟩

theorem test_witness_HostCommandIsTakenOrRefused :
    idle.busy = false ∧ legal 0x10 = true ∧ legal 0x0000000000010010 = false ∧ (busyAt .start (.ok 0) []).busy = true := by
  decide

theorem test_witness_OverrunFlagIsSticky :
    (busyAt .start (.ok 0) []).busy = true ∧
    (∃ t, step { idle with ovr := true } = .next t ∧ t.ovr = true) ∧
    (∃ t, step { idle with ovr := true, inputs := [.host .reset] } = .next t ∧ t.ovr = false) ∧
    (∃ t, step { idle with ovr := true, inputs := [.host (.writeReg 1 2)] } = .next t ∧ t.ovr = false) ∧
    (∃ t, step { idle with inputs := [.host (.writeReg 0 0x10)] } = .next t ∧ t.ovr = false) ∧
    (∃ t, exec .nop { busyAt .start (.ok 0) [] with ovr := true } = .next t ∧ t.ovr = true) :=
  ⟨by decide, ⟨_, rfl, rfl⟩, ⟨_, rfl, rfl⟩, ⟨_, rfl, rfl⟩, ⟨_, rfl, rfl⟩, ⟨_, rfl, rfl⟩⟩

/-- The first and last index in range and the first one past it, in TMEM (16 entries) and LMEM (256 bytes). -/
theorem test_witness_HostMemoryWriteReadsBack :
    idle.busy = false ∧ 0 < idle.cfg.tmemEntries ∧ 15 < idle.cfg.tmemEntries ∧ idle.cfg.tmemEntries ≤ 16 ∧
    255 < idle.cfg.lmemBytes ∧ idle.cfg.lmemBytes ≤ 256 ∧ (0 : Nat) ≠ 15 := by decide

theorem test_witness_HostRegisterMap :
    ({ idle with result := 5, resultWritten := true } : State).resultWritten = true ∧ 22 ≤ 22 ∧ 2 ≤ 2 ∧ 21 < 22 := by decide

theorem test_witness_BusyCommandSeesFixedInputs :
    let s := { busyAt .start (.ok 0) [] with inputs := [.host (.writeTmem 0 7)] }
    s.busy = true ∧ resetNext s = false ∧ ∃ t, step s = .next t ∧ t.ovr = true := ⟨rfl, rfl, _, rfl, rfl⟩

/-- The end of a command with a cancel pending, and a step that leaves it pending. -/
theorem test_witness_CommandEndClearsCancel :
    (∃ t, exec .nop { busyAt .start (.ok 0) [] with cancelPending := true } = .next t ∧
      (t.pcSeq == .idle && !t.cancelPending) = true) ∧
    (∃ t, exec .deselect { busyAt .start (.ok 0) [] with cancelPending := true } = .next t ∧
      (t.pcSeq != .idle && t.cancelPending) = true) :=
  ⟨next_of_nextHas (by decide), next_of_nextHas (by decide)⟩

theorem test_witness_TransferBusNeedsReleasedSelect :
    (let s := { busyAt .start (.ok 0) [] with csState := .asserted }; s.pcSeq = .start ∧ s.csState ≠ .deselected) ∧
    (let s := { busyAt .start (.ok 0) [] with csState := .unknown }; s.pcSeq = .start ∧ s.csState ≠ .deselected) ∧
    Instr.wrTB 7 0x80 ∈ [Instr.wrTB 7 0x80, .rdTB 7, .setbTB 7 1, .clrbTB 7 1, .getbTB 7 1, .capture] := by decide

theorem test_witness_NopOnlyClearsOutcome : idle.busy = false ∧ idle.inputs = [] := by decide

theorem test_witness_WriteSteps :
    (busyAt .start (.ok 0) []).pcSeq = .start ∧ (busyAt .start (.ok 0) []).csState = .deselected ∧
    (busyAt .delay (.ok 0) []).pcSeq = .delay ∧
    ((busyAt .written .err []).pcSeq = .written ∧ (busyAt .written .err []).ans = .err) ∧
    ((busyAt .written (.ok 0) []).pcSeq = .written ∧ (busyAt .written (.ok 0) []).ans = .ok 0) := by decide

theorem test_witness_ControlBusWriteWholeCommand : idle.busy = false ∧ idle.inputs = [] := by decide

theorem test_witness_ReadSteps :
    (busyAt .start (.ok 0) []).pcSeq = .start ∧ (busyAt .start (.ok 0) []).csState = .deselected ∧
    ((busyAt .read .err []).pcSeq = .read ∧ (busyAt .read .err []).ans = .err) ∧
    ((busyAt .read (.ok 0xFF) []).pcSeq = .read ∧ (busyAt .read (.ok 0xFF) []).ans = .ok 0xFF) := by decide

/-- RD.TB with chip-select released, and RD.A8D8 with chip-select unknown; answered `Ok` and `Err`. -/
theorem test_witness_ReadWholeCommand :
    (let s := { idle with answers := [.ok 0xFF] }
     s.busy = false ∧ s.inputs = [] ∧ s.answers = .ok 0xFF :: [] ∧
       (Instr.rdTB 0x41 = .rdTB 0x41 → s.csState = .deselected)) ∧
    (let s := { idle with answers := [.err], csState := .unknown }
     s.busy = false ∧ s.inputs = [] ∧ s.answers = .err :: [] ∧
       (Instr.rdA8D8 0x41 = .rdTB 0x41 → s.csState = .deselected)) := by decide

/-- Out of range at TLEN and at TMEM_ENTRIES; the last index in range, unwritten, with the sentinel and with an entry; the first
entry, and one after an answered write. -/
theorem test_witness_TableEntrySteps :
    (Port.a8d8, Instr.tblA8D8 15 1) ∈ [(Port.a8d8, Instr.tblA8D8 15 1), (.a16d8, .tblA16D8 15 1)] ∧
    (busyAt .start (.ok 0) []).pcSeq = .start ∧
    (let s := { busyAt .written (.ok 0) [] with ti := 0, tblCount := 1 }
     s.pcSeq = .written ∧ s.ans = .ok 0 ∧ (1 : Half) = s.ti + 1 ∧ (1 : Half) = s.tblCount) ∧
    ¬(1 < 1 ∧ 15 + 1 < idle.cfg.tmemEntries) ∧ ¬(0 < 1 ∧ 16 + 0 < idle.cfg.tmemEntries) ∧
    (0 < 1 ∧ 15 + 0 < idle.cfg.tmemEntries) ∧ Memory.read idle.tmem 15 = none ∧
    Memory.read ({ idle with tmem := [(15, 0x00FF00FF)] } : State).tmem 15 = some 0x00FF00FF ∧
    isSentinel .a8d8 0x00FF00FF = true ∧ isSentinel .a8d8 0x00FF00FE = false := by decide

theorem test_witness_TableDelayAndError :
    (busyAt .delay .err []).pcSeq = .delay ∧ (busyAt .written .err []).pcSeq = .written ∧
    (busyAt .written .err []).ans = .err := by decide

/-- One entry and the sentinel, the write answered `Ok`, and answered `Err`. -/
theorem test_witness_TableWritesEntriesInOrder :
    let s := { idle with tmem := [(14, 0x00803008), (15, 0x00FFFFFF)], answers := [.ok 0] }
    let s' := { s with answers := [.err] }
    (s.busy = false ∧ s.inputs = [] ∧ 1 < 2 ∧ 14 + 1 < s.cfg.tmemEntries ∧
      tableAt s 14 ([0x00803008] ++ [0x00FFFFFF]) ∧ (∀ e ∈ [(0x00803008 : Word32)], isSentinel .a16d8 e = false) ∧
      isSentinel .a16d8 0x00FFFFFF = true ∧ s.answers = [(0 : Half)].map Answer.ok ++ [] ∧ [(0 : Half)].length = 1) ∧
    (s'.busy = false ∧ s'.inputs = [] ∧ tableAt s' 14 ([0x00803008] ++ [0x00FFFFFF]) ∧
      s'.answers = ([] : List Half).map Answer.ok ++ .err :: [] ∧ 0 < [(0x00803008 : Word32)].length) := by
  refine ⟨⟨rfl, rfl, by decide, by decide, ?_,
    by simp only [List.mem_singleton, forall_eq]; decide, by decide, rfl, rfl⟩, rfl, rfl, ?_, rfl, by decide⟩
  all_goals
    intro k h
    match k, h with
    | 0, _ => rfl
    | 1, _ => rfl

theorem test_witness_SetAndClearBitSteps :
    (Port.a16d8, Instr.setbA16D8 0x3820 7) ∈
      [(Port.a8d8, Instr.setbA8D8 0x3820 7), (.a16d8, .setbA16D8 0x3820 7), (.tb, .setbTB 0x3820 7)] ∧
    (Port.tb, Instr.clrbTB 3 4) ∈ [(Port.a8d8, Instr.clrbA8D8 3 4), (.a16d8, .clrbA16D8 3 4), (.tb, .clrbTB 3 4)] ∧
    (busyAt .start (.ok 0) []).pcSeq = .start ∧ (busyAt .start (.ok 0) []).csState = .deselected ∧
    ((busyAt .read (.ok 0x47) []).pcSeq = .read ∧ (busyAt .read (.ok 0x47) []).ans = .ok 0x47) ∧
    ((busyAt .read .err []).pcSeq = .read ∧ (busyAt .read .err []).ans = .err) ∧
    (busyAt .delay (.ok 0) []).pcSeq = .delay ∧
    ((busyAt .written (.ok 0) []).pcSeq = .written ∧ (busyAt .written (.ok 0) []).ans = .ok 0) ∧
    ((busyAt .written .err []).pcSeq = .written ∧ (busyAt .written .err []).ans = .err) := by decide

theorem test_witness_GetBitSteps :
    (Port.tb, Instr.getbTB 0x41 3) ∈ [(Port.a8d8, Instr.getbA8D8 0x41 3), (.a16d8, .getbA16D8 0x41 3), (.tb, .getbTB 0x41 3)] ∧
    (busyAt .start (.ok 0) []).pcSeq = .start ∧ (busyAt .start (.ok 0) []).csState = .deselected ∧
    ((busyAt .read (.ok 8) []).pcSeq = .read ∧ (busyAt .read (.ok 8) []).ans = .ok 8) ∧
    ((busyAt .read .err []).pcSeq = .read ∧ (busyAt .read .err []).ans = .err) := by decide

theorem test_witness_WideBitWholeCommand :
    let s := { idle with answers := [.ok 0x47, .ok 0] }
    (7 : BitVec 4).toNat ≤ 7 ∧ s.busy = false ∧ s.inputs = [] ∧ s.answers = .ok 0x47 :: .ok 0 :: [] := by decide

theorem test_witness_BitOperationsTouchOneBit :
    15 < 16 ∧ (0xFF : Half) &&& ~~~dataMask .a8d8 = 0 ∧ oneBit 7 &&& ~~~dataMask .a8d8 = 0 := by decide

/-- A reading command, a table, and one that is neither. -/
theorem test_witness_RegisterDriverFrame :
    (∃ t, exec (.rdA8D16 0) (busyAt .start (.ok 0) []) = .next t ∧ (t.resultWritten && t.tblCount == 0) = true) ∧
    (∃ t, exec (.tblA8D16 7 3) { busyAt .start (.ok 0) [] with tblCount := 9 } = .next t ∧
      (!t.resultWritten && t.tblCount == 0) = true) ∧
    (∃ t, exec (.setbA8D16 0 15) { busyAt .start (.ok 0) [] with tblCount := 9 } = .next t ∧
      (!t.resultWritten && t.tblCount == 9) = true) :=
  ⟨next_of_nextHas (by decide), next_of_nextHas (by decide), next_of_nextHas (by decide)⟩

theorem test_witness_CaptureArms :
    (busyAt .start (.ok 0) []).pcSeq = .start ∧ (busyAt .start (.ok 0) []).csState = .deselected ∧
    (busyAt .armClear (.ok 0) []).pcSeq = .armClear ∧ (busyAt .armClear (.ok 0) []).ans = .ok 0 := by decide

/-- The done bit of C0-I9 is 0x08: set; clear, not cancelled and below the limit, at the limit, cancelled; and after arming. -/
theorem test_witness_CapturePolls :
    (let s := busyAt .polled (.ok 0x08) []
     s.ans = .ok 0x08 ∧ s.pcSeq = .polled ∧ (0x08 : Half).setWidth 8 &&& s.cfg.maskCapDone ≠ 0) ∧
    (let s := { busyAt .polled (.ok 0xF7) [] with capState := .armed, pollCount := 8 }
     s.ans = .ok 0xF7 ∧ s.pcSeq = .polled ∧ s.capState = .armed ∧ (0xF7 : Half).setWidth 8 &&& s.cfg.maskCapDone = 0 ∧
       s.cancelPending = false ∧ s.pollCount.toNat = s.cfg.pollLimit) ∧
    (let s := { busyAt .polled (.ok 0) [] with capState := .armed, pollCount := 7 }
     s.capState = .armed ∧ s.cancelPending = false ∧ s.pollCount.toNat ≠ s.cfg.pollLimit) ∧
    (let s := { busyAt .armStart (.ok 0) [] with cancelPending := true }
     s.ans = .ok 0 ∧ s.pcSeq = .armStart ∧ s.cancelPending = true) := by decide

/-- The lengths 0, MAX_FIFO_SIZE and one less. -/
theorem test_witness_CaptureReadsLength :
    (busyAt .size1 (.ok 0x0C) []).ans = .ok 0x0C ∧ (busyAt .size1 (.ok 0x0C) []).pcSeq = .size1 ∧
    (busyAt .size2 (.ok 0) []).pcSeq = .size2 ∧ (busyAt .size3 (.ok 0x80) []).pcSeq = .size3 ∧
    fifoLength 0 0 0x80 = 0 ∧ c0.maxFifoSize ≤ (fifoLength 0xFF 0xFF 0xFF).toNat ∧
    fifoLength 0xFE 0xFF 0xFF ≠ 0 ∧ (fifoLength 0xFE 0xFF 0xFF).toNat < c0.maxFifoSize := by decide

theorem test_witness_CaptureStreams :
    (busyAt .csAsserted (.ok 0) []).pcSeq = .csAsserted ∧
    ((busyAt .burstOpen (.ok 0) []).pcSeq = .burstOpen ∧ (busyAt .burstOpen (.ok 0) []).ans = .ok 0) ∧
    (let s := { busyAt .pulled (.ok 0xFF) [] with capCur := 0xFF, capRemain := 1 }
     s.pcSeq = .pulled ∧ s.ans = .ok 0xFF ∧ s.inFrame = false ∧
       ¬(s.capCur = 0xFF ∧ (0xFF : Half).setWidth 8 = (0xD8 : Byte)) ∧ s.capRemain - 1 = 0) ∧
    (busyAt .exhausted (.ok 0) []).pcSeq = .exhausted := by decide

/-- With one byte remaining and with more. -/
theorem test_witness_CaptureStartsFrame :
    (let s := { busyAt .pulled (.ok 0xD8) [] with capCur := 0xFF, capRemain := 1 }
     s.pcSeq = .pulled ∧ s.ans = .ok 0xD8 ∧ s.inFrame = false ∧ s.capCur = 0xFF ∧
       (0xD8 : Half).setWidth 8 = (0xD8 : Byte) ∧ s.capCursor = 0 ∧ s.capRemain = 1) ∧
    (let s := { busyAt .pulled (.ok 0xD8) [] with capCur := 0xFF, capRemain := 2 }
     s.pcSeq = .pulled ∧ s.ans = .ok 0xD8 ∧ s.inFrame = false ∧ s.capCur = 0xFF ∧ s.capCursor = 0 ∧ s.capRemain ≠ 1) := by
  decide

/-- The end-of-image marker, the last byte, and a byte before it. -/
theorem test_witness_CaptureStoresFrameByte :
    (let s := inFrameState
     s.pcSeq = .pulled ∧ s.ans = .ok 0xD9 ∧ s.inFrame = true ∧ s.capCursor.toNat < s.cfg.bufCap ∧
       (∀ k < s.capCursor.toNat, (Memory.read (α := Byte) s.abuf k).isSome = true) ∧ s.capCur = 0xFF) ∧
    (let s := { inFrameState with ans := .ok 0x00, capRemain := 1 }
     s.ans = .ok 0x00 ∧ ¬((0x00 : Half).setWidth 8 = (0xD9 : Byte)) ∧ s.capRemain = 1) ∧
    (let s := { inFrameState with capCursor := 3, abuf := [(0, 0xFF), (1, 0xD8), (2, 0x01)] }
     s.capCursor.toNat < s.cfg.bufCap ∧
       (∀ k < s.capCursor.toNat, (Memory.read (α := Byte) s.abuf k).isSome = true) ∧ s.capRemain ≠ 1) := by decide

theorem test_witness_CaptureRotates :
    (fullState.pcSeq = .pulled ∧ fullState.ans = .ok 0xD9 ∧ fullState.inFrame = true ∧
      fullState.capCursor.toNat = fullState.cfg.bufCap) ∧
    (let s := { fullState with pcSeq := .rotDeasserted .data }
     s.pcSeq = .rotDeasserted .data ∧
       Memory.readRange (α := Byte) s.abuf 0 s.cfg.bufCap = .ok [0xFF, 0xD8, 0x01, 0xFF]) ∧
    (let s := busyAt (.rotFlushed .data) (.ok 0) []; s.pcSeq = .rotFlushed .data ∧ s.ans = .ok 0) ∧
    (busyAt (.rotAsserted .startD8) (.ok 0) []).pcSeq = .rotAsserted .startD8 ∧
    (let s := { busyAt (.rotBurst .data) (.ok 0) [] with capPrev := 0xFF, capCur := 0xD9 }
     s.pcSeq = .rotBurst .data ∧ s.ans = .ok 0 ∧ s.capCursor = 0 ∧ s.capPrev = 0xFF ∧ s.capCur = 0xD9) := by decide

theorem test_witness_CaptureEndsFrame :
    (let s := busyAt .eofFlushed (.ok 0) []; s.pcSeq = .eofFlushed ∧ s.ans = .ok 0) ∧
    (busyAt .eofDeasserted (.ok 0) []).pcSeq = .eofDeasserted := by decide

theorem test_witness_CaptureErrorExits :
    (let s := busyAt .polled .err []; s.pcSeq = .polled ∧ s.ans = .err) ∧
    (Point.rotBurst .startFF, PrimCode.burstBegin) ∈
      [(.armClear, .tbWrite), (.armStart, .tbWrite), (.polled, .tbRead), (.size1, .tbRead), (.size2, .tbRead),
        (.size3, .tbRead), (.burstOpen, .burstBegin), (.pulled, .xfer), (.rotBurst .startFF, .burstBegin)] ∧
    (let s := busyAt (.rotFlushed .data) .err []; s.pcSeq = .rotFlushed .data ∧ s.ans = .err) ∧
    Point.eofFlushed ∈ [Point.rotFlushed .data, .eofFlushed] ∧
    (let s := { busyAt .armStart (.ok 0) [] with cancelPending := true }
     s.ans = .ok 0 ∧ s.pcSeq = .armStart ∧ s.cancelPending = true) ∧
    (let s := { busyAt .polled (.ok 0xF7) [] with pollCount := 8 }
     s.ans = .ok 0xF7 ∧ s.pcSeq = .polled ∧ (0xF7 : Half).setWidth 8 &&& s.cfg.maskCapDone = 0 ∧
       s.cancelPending = false ∧ s.pollCount.toNat = s.cfg.pollLimit) ∧
    (let s := busyAt .size3 (.ok 0x80) []
     s.ans = .ok 0x80 ∧ s.pcSeq = .size3 ∧ fifoLength s.size1 s.size2 ((0x80 : Half).setWidth 8) = 0) ∧
    (let s := { busyAt .size3 (.ok 0x7F) [] with size1 := 0xFF, size2 := 0xFF }
     let len := fifoLength s.size1 s.size2 ((0x7F : Half).setWidth 8)
     s.ans = .ok 0x7F ∧ s.pcSeq = .size3 ∧ len ≠ 0 ∧ s.cfg.maxFifoSize ≤ len.toNat) ∧
    (busyAt .exhausted (.ok 0) []).pcSeq = .exhausted ∧
    (let s := { busyAt .start (.ok 0) [] with csState := .unknown }
     s.pcSeq = .start ∧ s.csState ≠ .deselected ∧ s.capState = .idle) := by decide

theorem test_witness_CaptureAndDeselectFrame :
    (∃ t, exec .capture inFrameState = .next t ∧ (t.capCursor == 3) = true) ∧
    (∃ t, exec .deselect (busyAt .deselected (.ok 0) []) = .next t ∧ (!t.busy) = true) :=
  ⟨next_of_nextHas (by decide), next_of_nextHas (by decide)⟩

theorem test_witness_DeselectReleasesChipSelect :
    (busyAt .start (.ok 0) []).pcSeq = .start ∧ (busyAt .deselected (.ok 0) []).pcSeq = .deselected ∧ idle.busy = false ∧
    idle.inputs = [] := by decide

/-- The shortest frame, `FF D8 FF D9`, done at the first poll; and a FIFO of one byte. -/
theorem test_witness_CaptureDeliversFirstFrame :
    let s := { idle with
      answers := [.ok 0, .ok 0, .ok 8, .ok 4, .ok 0, .ok 0, .ok 0, .ok 0xFF, .ok 0xD8, .ok 0xFF, .ok 0xD9, .ok 0] }
    let s' := { idle with answers := [.ok 0, .ok 0, .ok 8, .ok 1, .ok 0, .ok 0, .ok 0, .ok 0xFF] }
    (s.busy = false ∧ s.inputs = [] ∧ s.csState = .deselected ∧
      ∃ t, runSteps 15 (issued .capture s) = .next t ∧ (!t.busy && t.err == .ok && t.capOut == 4) = true) ∧
    (s'.busy = false ∧ s'.inputs = [] ∧ s'.csState = .deselected ∧
      ∃ t, runSteps 11 (issued .capture s') = .next t ∧ (!t.busy && t.err == .incompleteFrame) = true) :=
  ⟨⟨rfl, rfl, rfl, next_of_nextHas (by decide)⟩, rfl, rfl, rfl, next_of_nextHas (by decide)⟩

/-- N27's three bytes, and a range that ends with LMEM. -/
theorem test_witness_NmeaLineReportsOutcome :
    let s := { idle with lmem := lmemOf [0x2A, 0x30, 0x30] }
    (0 : Half).toNat + (3 : Half).toNat ≤ s.cfg.lmemBytes ∧
    Memory.readRange (α := Byte) s.lmem (0 : Half).toNat (3 : Half).toNat = .ok [0x2A, 0x30, 0x30] ∧
    (256 : Half).toNat + (0 : Half).toNat ≤ s.cfg.lmemBytes ∧
    Memory.readRange (α := Byte) s.lmem (256 : Half).toNat (0 : Half).toNat = .ok [] := by decide

theorem test_witness_NmeaBufCountsLines :
    let s := { idle with lmem := lmemOf ggaLine }
    (0 : Half).toNat + (19 : Half).toNat ≤ s.cfg.lmemBytes ∧
    Memory.readRange (α := Byte) s.lmem (0 : Half).toNat (19 : Half).toNat = .ok ggaLine ∧
    (∃ u, decodeLine ggaLine = .accepted .gga u) := ⟨by decide, by decide, _, rfl⟩

theorem test_witness_NmeaBufFoldsInOrder :
    isTerminator 0x0A = true ∧ isTerminator 0x0D = true ∧ rmcLine ≠ [] ∧ (∀ b ∈ rmcLine, isTerminator b = false) ∧
    ∀ b ∈ ([] : List Byte), isTerminator b = false := by decide

/-- N35's range; a range that ends with LMEM, its first byte unwritten; one whose last byte is. -/
theorem test_witness_NmeaRangeIsChecked :
    Instr.nmeaBuf 200 57 ∈ [Instr.nmeaLine 200 57, .nmeaBuf 200 57] ∧
    c0.lmemBytes < (200 : Half).toNat + (57 : Half).toNat ∧
    ((200 : Half).toNat + (56 : Half).toNat ≤ c0.lmemBytes ∧ Memory.read (α := Byte) idle.lmem 200 = none) ∧
    (let s := { idle with lmem := [(254, 0x24)] }
     254 + 2 ≤ s.cfg.lmemBytes ∧ Memory.read (α := Byte) s.lmem 255 = none ∧
       (Memory.read (α := Byte) s.lmem 254).isSome = true) := by decide

/-- The line `$A*41`, its second byte's lowest bit flipped. -/
theorem test_witness_SingleBitFlipIsDetected :
    let line : List Byte := [0x24] ++ 0x41 :: [0x2A, 0x34, 0x31]
    hasStar line = true ∧ checksumMatches line = true ∧ (∀ x ∈ ([0x24] : List Byte), x ≠ starByte) ∧
    (0x41 : Byte) ≠ starByte ∧ (0x41 : Byte) ^^^ (1#8 <<< 0) ≠ starByte := by decide

theorem test_witness_DecodingTwiceIsDecodingOnce :
    let s := { idle with lmem := lmemOf [0x2A, 0x30, 0x30] }
    s.busy = false ∧ s.inputs = [] ∧ ∃ t, runSteps 1 (issued (.nmeaLine 0 3) s) = .next t ∧ (t.err == .unknownSentence) = true :=
  ⟨rfl, rfl, next_of_nextHas (by decide)⟩

theorem test_witness_CoordinateConversion : (0 : Rat) ≤ 0 ∧ (0 : Rat) < 100 ∧ (0 : Rat) ≤ 329 / 20 ∧ (329 / 20 : Rat) < 100 := by
  norm_num

/-- The 9 fields of an RMC line with this speed and course and nothing else. -/
def rmcFields (speed course : List Byte) : List (List Byte) := [rmcTag, [], [], [], [], [], [], speed, course]

/-- The 10 fields of N19. -/
def ggaFields : List (List Byte) := [ggaTag, [0x31], [], [], [], [], [], [], [], []]

/-- No `'*'`; one hex digit only, of `$A`; `$A*41` of unknown prefix; `$GPGGA*56` with one field; the GGA line N19 and the
RMC line N21, with exactly the fields their kind needs; and `$GPRMC,,,,,,,x,*33`. -/
theorem test_witness_AcceptedLineUpdates :
    (∃ u, decodeLine ggaLine = .accepted .gga u) ∧ (∃ u, decodeLine rmcLine = .accepted .rmc u) ∧
    starByte ∉ ([0x24, 0x41] : List Byte) ∧
    (let fs : List (List Byte) := [[0x24, 0x41]]
     fs ≠ [] ∧ (∀ f ∈ fs, (0x2C : Byte) ∉ f) ∧ [0x24, 0x41] = [0x2C].intercalate fs) ∧
    ¬SendsChecksum [0x34] (bodySum [0x24, 0x41]).toNat ∧
    SendsChecksum [0x34, 0x31] (bodySum [0x24, 0x41]).toNat ∧
    (let line := [0x24, 0x41] ++ starByte :: [0x34, 0x31]; ¬ggaTag <+: line ∧ ¬rmcTag <+: line) ∧
    (SendsChecksum [0x35, 0x36] (bodySum ggaTag).toNat ∧ ([0x2C] : List Byte).intercalate [ggaTag] = ggaTag ∧
      tagOf .gga <+: ggaTag ++ starByte :: [0x35, 0x36] ∧ [ggaTag].length < 10) ∧
    (let body := ([0x2C] : List Byte).intercalate ggaFields
     starByte ∉ body ∧ (∀ f ∈ ggaFields, (0x2C : Byte) ∉ f) ∧ body ++ starByte :: [0x34, 0x42] = ggaLine ∧
       SendsChecksum [0x34, 0x42] (bodySum body).toNat ∧ tagOf .gga <+: ggaLine ∧ ggaFields.length = 10 ∧
       UpdateOf .gga ggaFields {}) ∧
    (let fs := rmcFields [0x2E, 0x35] [0x35, 0x2E]
     let body := ([0x2C] : List Byte).intercalate fs
     starByte ∉ body ∧ (∀ f ∈ fs, (0x2C : Byte) ∉ f) ∧ body ++ starByte :: [0x34, 0x42] = rmcLine ∧
       SendsChecksum [0x34, 0x42] (bodySum body).toNat ∧ tagOf .rmc <+: rmcLine ∧ fs.length = 9 ∧
       ∃ u, UpdateOf .rmc fs u) ∧
    (let fs := rmcFields [0x78] []
     let body := ([0x2C] : List Byte).intercalate fs
     starByte ∉ body ∧ (∀ f ∈ fs, (0x2C : Byte) ∉ f) ∧ SendsChecksum [0x33, 0x33] (bodySum body).toNat ∧
       tagOf .rmc <+: body ++ starByte :: [0x33, 0x33] ∧ fs.length = 9 ∧ ∀ u, ¬UpdateOf .rmc fs u) := by
  have sends {body after : List Byte} (h : starByte ∉ body) (hm : checksumMatches (body ++ starByte :: after) = true) :=
    (Laws.checksumMatches_append after h).1 hm
  refine ⟨⟨_, rfl⟩, ⟨_, rfl⟩, by decide, by decide, ?_, sends (by decide) (by decide), by decide,
    ⟨sends (by decide) (by decide), by decide, by decide, by decide⟩,
    ⟨by decide, by decide, by decide, sends (by decide) (by decide), by decide, rfl, Laws.updateOf_eq_some.1 rfl⟩,
    ⟨by decide, by decide, by decide, sends (by decide) (by decide), by decide, rfl, _, Laws.updateOf_eq_some.1 rfl⟩,
    ⟨by decide, by decide, sends (by decide) (by decide), by decide, rfl, fun u h => ?_⟩⟩
  · rw [← Laws.checksumMatches_append [0x34] (by decide : starByte ∉ ([0x24, 0x41] : List Byte))]
    decide
  · cases Laws.updateOf_eq_some.2 h

theorem test_witness_SequencerInvariantKept :
    SequencerInv inFrameState ∧ (∃ t, step inFrameState = .next t ∧ t.busy = true) ∧ SequencerInv idle ∧
    ∃ t, step idle = .next t ∧ t.busy = false := by
  refine ⟨?_, ⟨_, rfl, rfl⟩, ⟨rfl, rfl, rfl⟩, _, rfl, rfl⟩
  show ownsPoint .capture .pulled = true ∧ (_ → _)
  exact ⟨rfl, fun _ => rfl⟩

theorem test_witness_MemoryInvariantKept :
    MemoryInv inFrameState ∧ ∃ t, step inFrameState = .next t ∧ t.abuf = [(0, 0xFF), (1, 0xD8), (2, 0xD9)] :=
  ⟨by unfold MemoryInv Memory.wf; decide, _, rfl, rfl⟩

theorem test_witness_BufferInvariantKept :
    BufferInv inFrameState ∧ (∃ t, step inFrameState = .next t ∧ t.capCursor = 3) ∧
    BufferInv { fullState with pcSeq := .rotDeasserted .data } :=
  ⟨⟨by decide, by decide, trivial⟩, ⟨_, rfl, rfl⟩, by decide, by decide, rfl⟩

theorem test_witness_BurstDisciplineKept :
    BurstInv inFrameState ∧ ∃ t, step { inFrameState with capCur := 0x01 } = .next t ∧ t.pcSeq = .pulled :=
  ⟨⟨rfl, rfl⟩, _, rfl, rfl⟩

theorem test_witness_DelayDisciplineKept :
    DelayInv delayState ∧ resetNext delayState = false ∧
    ∃ t, step delayState = .next t ∧ t.pcSeq = .written :=
  ⟨⟨rfl, fun _ => ⟨rfl, rfl, .wrA16D8 0x3008 0x80, rfl, rfl⟩⟩, rfl, _, rfl, rfl⟩

theorem test_witness_CommandsEndWithinBound :
    (Instr.tblA16D8 4 100).wellFormed = true ∧ idle.busy = false ∧ idle.inputs = [] := by decide

end Sys2Proof.Tests
end

section
/-! PROOFS. The sequencer's step (R9, R50): what a turn of the schedule does, that a placed command is the one the next step
runs (log 1), and that a command step performs at most one primitive. -/

namespace Sys2Proof.Proofs

open Sys2Proof Sys2Proof.Machine Sys2Proof.Safety Sys2Proof.Laws

/-! ### A turn of the schedule -/

/-- With an empty schedule the sequencer moves (log 2). -/
theorem step_of_inputs_nil {s : State} (h : s.inputs = []) : step s = seqStep s := by
  simp only [step, h]

/-- The sequencer's turn is taken off the schedule, then the sequencer moves (R9). -/
theorem step_of_inputs_sequencer {s : State} {rest : List Turn} (h : s.inputs = .sequencer :: rest) :
    step s = seqStep { s with inputs := rest } := by
  simp only [step, h]

/-- A host action is one step by itself (R306). -/
theorem step_of_inputs_host {s : State} {a : HostAction} {rest : List Turn} (h : s.inputs = .host a :: rest) :
    step s = .next (hostAct a { s with inputs := rest }) := by
  simp only [step, h]

/-- A busy block runs the command that CUR_CMD decodes to (R50). -/
theorem seqStep_of_busy {s : State} {i : Instr} (hb : s.busy = true) (hd : decode s.curCmd = .ok i) :
    seqStep s = exec i s := by
  simp only [seqStep, currentCommand, hb, hd, if_true]

/-- Between commands the sequencer does nothing (R305). -/
theorem seqStep_of_idle {s : State} (hb : s.busy = false) : seqStep s = .next s := by
  simp only [seqStep, hb, Bool.false_eq_true, if_false, idleTurn]

/-- Settles O5: the schedule says whose turn it is, and the sequencer's turn splits on BUSY. -/
theorem stepRunsDecodedCommand : Obligations.StepRunsDecodedCommand := by
  intro s rest
  refine ⟨fun i hb hd => ⟨fun hi => ?_, fun hi => ?_⟩, fun hb => ⟨fun hi => ?_, fun hi => ?_⟩,
    fun a hi => step_of_inputs_host hi⟩
  · rw [step_of_inputs_nil hi, seqStep_of_busy hb hd]
  · rw [step_of_inputs_sequencer hi, seqStep_of_busy (s := { s with inputs := rest }) hb hd]
  · rw [step_of_inputs_nil hi, seqStep_of_idle hb]
  · rw [step_of_inputs_sequencer hi, seqStep_of_idle (s := { s with inputs := rest }) hb]

/-! ### The descriptor of a well-formed command -/

/-- Decoding the descriptor of a well-formed command gives the command back (R111, R117). Only the bit operations of the
8-bit data ports meet a test that their operands could fail (R114). -/
theorem decode_encode {i : Instr} (h : i.wellFormed = true) : decode (encode i) = .ok i := by
  cases i with
  | setbA8D8 addr bit | setbA16D8 addr bit | setbTB addr bit
  | clrbA8D8 addr bit | clrbA16D8 addr bit | clrbTB addr bit
  | getbA8D8 addr bit | getbA16D8 addr bit | getbTB addr bit =>
    exact (decode_assemble ..).trans (if_pos (of_decide_eq_true h))
  | _ => exact decode_assemble ..

/-- An assembled descriptor is legal by its operation code, port, bit index and operands: its reserved fields are zero (R117). -/
theorem legal_assemble (opc : Byte) (port : BitVec 3) (bit : BitVec 4) (addr val : Half) :
    legal (assemble opc port bit addr val) =
      (knownOpcode opc && legalPort opc port && legalBit opc port bit && legalOperands opc addr val) := by
  simp [legal]

/-- The descriptor of a well-formed command is legal (R117). -/
theorem legal_encode {i : Instr} (h : i.wellFormed = true) : legal (encode i) = true := by
  cases i with
  | setbA8D8 addr bit | setbA16D8 addr bit | setbTB addr bit
  | clrbA8D8 addr bit | clrbA16D8 addr bit | clrbTB addr bit
  | getbA8D8 addr bit | getbA16D8 addr bit | getbTB addr bit =>
    rw [encode, legal_assemble]
    simpa [knownOpcode, legalPort, legalBit, legalOperands, isBitOpcode] using of_decide_eq_true h
  | _ => exact legal_assemble ..

/-! ### Placing a command -/

/-- Taking a command leaves the schedule as it is (R118). -/
theorem takeCommand_inputs (c : Desc) (s : State) : (takeCommand c s).inputs = s.inputs := by
  rcases takeCommand_cases c s with ⟨-, h⟩ | ⟨-, h⟩ <;> rw [h]

/-- A 64-bit descriptor given as a number is placed as it is (R110). -/
theorem withFetchWord_toNat (c : Desc) (s : State) :
    s.withFetchWord 64 c.toNat = { takeCommand c s with inputs := .sequencer :: s.inputs } := by
  simp only [State.withFetchWord, placeCommand, Nat.mod_eq_of_lt c.isLt, BitVec.ofNat_toNat, BitVec.setWidth_eq]

/-- The step after placing a descriptor is the sequencer's, from the state that taking the descriptor leaves (log 1). -/
theorem step_withFetchWord (c : Desc) (s : State) : step (s.withFetchWord 64 c.toNat) = seqStep (takeCommand c s) := by
  rw [withFetchWord_toNat, step_of_inputs_sequencer rfl, ← takeCommand_inputs c s]

/-- Issuing a well-formed command makes the block busy with its descriptor in CUR_CMD (R118). -/
theorem issued_busy_curCmd {i : Instr} (h : i.wellFormed = true) (s : State) :
    (issued i s).busy = true ∧ (issued i s).curCmd = encode i := by
  rcases takeCommand_cases (encode i) s with ⟨-, ht⟩ | ⟨hl, -⟩
  · rw [issued, ht]
    exact ⟨rfl, rfl⟩
  · rw [legal_encode h] at hl
    cases hl

/-- Settles O6: the placed descriptor is taken, and the sequencer's turn decodes it back to the command. -/
theorem fetchWordStepRunsCommand : Obligations.FetchWordStepRunsCommand := by
  intro i s hw
  obtain ⟨hb, hc⟩ := issued_busy_curCmd hw s
  calc step (s.withFetchWord 64 (encode i).toNat)
      = seqStep (issued i s) := step_withFetchWord (encode i) s
    _ = exec i (issued i s) := seqStep_of_busy hb (by rw [hc, decode_encode hw])

/-! ### The primitives of one step -/

/-- R9: `t` ends the command with no event after those of `s`, or goes on with it after exactly one. -/
def EndsOrPerformsOne (s t : State) : Prop :=
  (t.hist = s.hist ∧ t.busy = false ∧ t.pcSeq = .idle) ∨
  (∃ e, t.hist = s.hist ++ [e] ∧ t.busy = s.busy ∧ t.pcSeq ≠ .idle ∧ t.pcSeq ≠ .start)

/-- A change of state between primitives: it keeps the history and BUSY. -/
def SameHistBusy (s u : State) : Prop := u.hist = s.hist ∧ u.busy = s.busy

theorem SameHistBusy.of_registerOnly {s u : State} (h : RegisterOnly s u) : SameHistBusy s u := by
  unfold RegisterOnly at h
  exact ⟨by rw [h], by rw [h]⟩

theorem SameHistBusy.of_captureOnly {s u : State} (h : CaptureOnly s u) : SameHistBusy s u := by
  unfold CaptureOnly at h
  exact ⟨by rw [h], by rw [h]⟩

theorem SameHistBusy.of_decoderOnly {s u : State} (h : DecoderOnly s u) : SameHistBusy s u := by
  unfold DecoderOnly at h
  exact ⟨by rw [h], by rw [h]⟩

/-- The program points of a register command after its first are neither `idle` nor `start`. -/
theorem registerPoint_ne {k : Point} (h : registerPoint k = true) : k ≠ .idle ∧ k ≠ .start := by
  constructor <;> rintro rfl <;> cases h

/-- The program points of a capture after its first are neither `idle` nor `start`. -/
theorem capturePoint_ne {k : Point} (h : capturePoint k = true) : k ≠ .idle ∧ k ≠ .start := by
  constructor <;> rintro rfl <;> cases h

section
variable {s u : State} (hu : SameHistBusy s u)
include hu

theorem endsOrPerformsOne_raise (e : ErrCode) (prim : PrimCode) (idx : Half) : EndsOrPerformsOne s (raise e prim idx u) :=
  .inl ⟨hu.1, rfl, rfl⟩

theorem endsOrPerformsOne_finish (e : ErrCode) : EndsOrPerformsOne s (finish e u) := .inl ⟨hu.1, rfl, rfl⟩

theorem endsOrPerformsOne_ask (p : Prim) {k : Point} (hk : k ≠ .idle ∧ k ≠ .start) : EndsOrPerformsOne s (ask p k u) :=
  .inr ⟨⟨p, answerTo p u⟩, by rw [ask_hist, hu.1], hu.2, hk⟩

theorem endsOrPerformsOne_signal (p : Prim) {k : Point} (hk : k ≠ .idle ∧ k ≠ .start) :
    EndsOrPerformsOne s (signal p k u) :=
  .inr ⟨⟨p, .ok 0⟩, by rw [signal_hist, hu.1], hu.2, hk⟩

/-- A sink write is its primitive for the history, and beside it only changes the sink. -/
theorem endsOrPerformsOne_askSink (bytes : List Byte) {k : Point} (hk : k ≠ .idle ∧ k ≠ .start) :
    EndsOrPerformsOne s (askSink bytes k u) :=
  endsOrPerformsOne_ask hu (.sinkWrite bytes) hk

end

/-- A step of the register driver ends the command or performs one primitive (R140). -/
theorem RegisterShape.endsOrPerformsOne {s t : State} (h : RegisterShape s t) : EndsOrPerformsOne s t := by
  obtain ⟨u, hu, ht⟩ := h
  have hs := SameHistBusy.of_registerOnly hu
  rcases ht with ⟨e, prim, idx, rfl⟩ | rfl | ⟨p, k, -, hk, rfl⟩ | rfl
  · exact endsOrPerformsOne_raise hs e prim idx
  · exact endsOrPerformsOne_finish hs .ok
  · exact endsOrPerformsOne_ask hs p (registerPoint_ne hk)
  · exact endsOrPerformsOne_signal hs _ (registerPoint_ne rfl)

/-- A step of CAPTURE ends the command or performs one primitive (R190). -/
theorem CaptureShape.endsOrPerformsOne {s t : State} (h : CaptureShape s t) : EndsOrPerformsOne s t := by
  obtain ⟨u, hu, ht⟩ := h
  have hs := SameHistBusy.of_captureOnly hu
  rcases ht with ⟨e, prim, rfl⟩ | rfl | ⟨p, k, hk, rfl⟩ | ⟨p, k, hk, rfl⟩ | ⟨bytes, k, hk, rfl⟩
  · exact endsOrPerformsOne_raise hs e prim 0
  · exact endsOrPerformsOne_finish hs .ok
  · exact endsOrPerformsOne_ask hs p (capturePoint_ne hk)
  · exact endsOrPerformsOne_signal hs p (capturePoint_ne hk)
  · exact endsOrPerformsOne_askSink hs bytes (capturePoint_ne hk)

/-- Settles O7, by the shapes of a command's next state, unit by unit. -/
theorem onePrimitivePerStep : Obligations.OnePrimitivePerStep := by
  intro i s t h
  show EndsOrPerformsOne s t
  rcases exec_shape h with hr | hc | ⟨-, rfl⟩ | rfl | ⟨u, e, hd, rfl⟩
  · exact RegisterShape.endsOrPerformsOne hr
  · exact CaptureShape.endsOrPerformsOne hc
  · exact endsOrPerformsOne_finish (u := { s with csState := .deselected }) ⟨rfl, rfl⟩ .ok
  · exact endsOrPerformsOne_signal ⟨rfl, rfl⟩ .csDeassert ⟨nofun, nofun⟩
  · exact endsOrPerformsOne_finish (.of_decoderOnly hd) e

end Sys2Proof.Proofs
end

section
/-! PROOFS. The host interface (R31 to R49, R306): what each host action can do, what a step of a command can do to the state
that it shares with the host, and the registers as the host reads them. -/

namespace Sys2Proof.Proofs

open Sys2Proof Sys2Proof.Machine Sys2Proof.Safety Sys2Proof.Laws

/-! ### What a host action can do -/

theorem hostWriteReg_of_two_le {k : Nat} (h : 2 ≤ k) (v : BitVec 64) (s : State) : hostWriteReg k v s = s := by
  unfold hostWriteReg
  split
  · omega
  · omega
  · rfl

/-- Everything a host action `a` can leave of the state `s` (R306). -/
inductive HostEffect (a : HostAction) (s : State) : State → Prop
  /-- A write to CMD, TMEM or LMEM of a busy block sets OVR (R35). -/
  | discarded (busy : s.busy = true) : HostEffect a s { s with ovr := true }
  /-- A write to CMD of an idle block takes the descriptor (R118). -/
  | command (idle : s.busy = false) (c : Desc) : HostEffect a s (takeCommand c s)
  /-- A write to CTRL (R32). -/
  | control (v : BitVec 64) (act : a = .writeReg 1 v) : HostEffect a s (hostWriteCtrl (v.setWidth 8) s)
  /-- A write to a memory of an idle block, also the ignored one past its end (R306). -/
  | memory (idle : s.busy = false) (tmem : Memory Word32) (lmem : List Host.Cell) :
      HostEffect a s { s with tmem := tmem, lmem := lmem }
  /-- A write to a read-only or reserved index (R49). -/
  | ignored : HostEffect a s s
  /-- A read (R306). -/
  | read (k : Nat) : HostEffect a s (hostReadReg k s)
  /-- Reset (R320). -/
  | reset (act : a = .reset) : HostEffect a s (hostReset s)

theorem hostWriteTmem_effect (a : HostAction) (i : Nat) (e : Word32) (s : State) :
    HostEffect a s (hostWriteTmem i e s) := by
  unfold hostWriteTmem
  split_ifs with hb hi
  · exact .discarded hb
  · exact .memory (Bool.eq_false_of_not_eq_true hb) _ s.lmem
  · exact .ignored

theorem hostWriteLmem_effect (a : HostAction) (i : Nat) (b : Byte) (s : State) :
    HostEffect a s (hostWriteLmem i b s) := by
  unfold hostWriteLmem
  split_ifs with hb hi
  · exact .discarded hb
  · exact .memory (Bool.eq_false_of_not_eq_true hb) s.tmem _
  · exact .ignored

theorem hostAct_effect (a : HostAction) (s : State) : HostEffect a s (hostAct a s) := by
  cases a with
  | writeReg k v =>
    match k with
    | 0 =>
      show HostEffect _ s (hostWriteCmd v s)
      unfold hostWriteCmd
      split_ifs with hb
      · exact .discarded hb
      · exact .command (Bool.eq_false_of_not_eq_true hb) v
    | 1 => exact .control v rfl
    | _ + 2 => exact .ignored
  | writeTmem i e => exact hostWriteTmem_effect _ i e s
  | writeLmem i b => exact hostWriteLmem_effect _ i b s
  | readReg k => exact .read k
  | reset => exact .reset rfl

/-! ### What a step can do -/

/-- The state with its next turn taken off the schedule. -/
def turnTaken (s : State) : State := { s with inputs := s.inputs.tail }

/-- Everything a step can do: a host action, an idle turn, or one step of the command that CUR_CMD decodes to (R9). -/
inductive StepEffect (s t : State) : Prop
  | host (a : HostAction) (turn : s.inputs = .host a :: s.inputs.tail) (effect : HostEffect a (turnTaken s) t)
  | idle (idle : s.busy = false) (next : t = turnTaken s)
  | command (busy : s.busy = true) (i : Instr) (dec : decode s.curCmd = .ok i) (run : exec i (turnTaken s) = .next t)

theorem turnTaken_of_nil {s : State} (h : s.inputs = []) : turnTaken s = s := by
  cases s
  cases h
  rfl

/-- Unless the next turn is the host's, the sequencer moves (log 2). -/
theorem step_host_or_sequencer (s : State) :
    (∃ a, s.inputs = .host a :: s.inputs.tail ∧ step s = .next (hostAct a (turnTaken s))) ∨
    step s = seqStep (turnTaken s) := by
  match h : s.inputs with
  | [] =>
    refine .inr ?_
    rw [step_of_inputs_nil h, turnTaken_of_nil h]
  | .host a :: rest =>
    refine .inl ⟨a, rfl, ?_⟩
    rw [step_of_inputs_host h]
    simp only [turnTaken, h, List.tail_cons]
  | .sequencer :: rest =>
    refine .inr ?_
    rw [step_of_inputs_sequencer h]
    simp only [turnTaken, h, List.tail_cons]

theorem step_effect {s t : State} (h : step s = .next t) : StepEffect s t := by
  rcases step_host_or_sequencer s with ⟨a, ha, hs⟩ | hs <;> rw [hs] at h
  · cases h
    exact .host a ha (hostAct_effect a _)
  · cases hb : s.busy with
    | false =>
      rw [seqStep_of_idle (s := turnTaken s) hb] at h
      cases h
      exact .idle hb rfl
    | true =>
      cases hd : decode s.curCmd with
      | ok i => exact .command hb i hd (by rwa [seqStep_of_busy (s := turnTaken s) hb hd] at h)
      | error e =>
        simp only [seqStep, currentCommand, turnTaken, hb, hd, if_true] at h
        cases h

/-! ### What a step of a command can do to the shared state -/

/-- What no command changes of the state that it shares with the host (R35, R95). -/
structure HostSideKept (s t : State) : Prop where
  tmem : t.tmem = s.tmem
  lmem : t.lmem = s.lmem
  cmdLast : t.cmdLast = s.cmdLast
  curCmd : t.curCmd = s.curCmd
  cfg : t.cfg = s.cfg
  ovr : t.ovr = s.ovr

/-- What the units of the block leave alone before a shared operation ends the command or issues a primitive. -/
structure Untouched (s u : State) : Prop extends HostSideKept s u where
  cancelPending : u.cancelPending = s.cancelPending

theorem Untouched.of_registerOnly {s u : State} (h : RegisterOnly s u) : Untouched s u := by
  unfold RegisterOnly at h
  rw [h]
  exact ⟨⟨rfl, rfl, rfl, rfl, rfl, rfl⟩, rfl⟩

theorem Untouched.of_captureOnly {s u : State} (h : CaptureOnly s u) : Untouched s u := by
  unfold CaptureOnly at h
  rw [h]
  exact ⟨⟨rfl, rfl, rfl, rfl, rfl, rfl⟩, rfl⟩

theorem Untouched.of_decoderOnly {s u : State} (h : DecoderOnly s u) : Untouched s u := by
  unfold DecoderOnly at h
  rw [h]
  exact ⟨⟨rfl, rfl, rfl, rfl, rfl, rfl⟩, rfl⟩

/-- The shared operations that stand at the end of every step of a command (R9, R15). -/
inductive SharedEnd (u : State) : State → Prop
  | raise (e : ErrCode) (prim : PrimCode) (idx : Half) : SharedEnd u (raise e prim idx u)
  | finish (e : ErrCode) : SharedEnd u (finish e u)
  | ask (p : Prim) {k : Point} (later : k ≠ .idle) : SharedEnd u (ask p k u)
  | signal (p : Prim) {k : Point} (later : k ≠ .idle) : SharedEnd u (signal p k u)
  | askSink (bytes : List Byte) {k : Point} (later : k ≠ .idle) : SharedEnd u (askSink bytes k u)

/-- A step of a command changes the state of its unit only, and then ends the command or issues one primitive. -/
theorem exec_sharedEnd {i : Instr} {s t : State} (h : exec i s = .next t) : ∃ u, Untouched s u ∧ SharedEnd u t := by
  rcases exec_shape h with ⟨u, hu, ht⟩ | ⟨u, hu, ht⟩ | ⟨-, rfl⟩ | rfl | ⟨u, e, hd, rfl⟩
  · refine ⟨u, .of_registerOnly hu, ?_⟩
    rcases ht with ⟨e, prim, idx, rfl⟩ | rfl | ⟨p, k, -, hk, rfl⟩ | rfl
    exacts [.raise e prim idx, .finish .ok, .ask p (registerPoint_ne hk).1, .signal _ nofun]
  · refine ⟨u, .of_captureOnly hu, ?_⟩
    rcases ht with ⟨e, prim, rfl⟩ | rfl | ⟨p, k, hk, rfl⟩ | ⟨p, k, hk, rfl⟩ | ⟨bytes, k, hk, rfl⟩
    exacts [.raise e prim 0, .finish .ok, .ask p (capturePoint_ne hk).1, .signal p (capturePoint_ne hk).1,
      .askSink bytes (capturePoint_ne hk).1]
  · exact ⟨{ s with csState := .deselected }, ⟨⟨rfl, rfl, rfl, rfl, rfl, rfl⟩, rfl⟩, .finish .ok⟩
  · exact ⟨s, ⟨⟨rfl, rfl, rfl, rfl, rfl, rfl⟩, rfl⟩, .signal _ nofun⟩
  · exact ⟨u, .of_decoderOnly hd, .finish e⟩

/-- Settles O16: only the two ends of a command clear the flag, and a primitive keeps it. -/
theorem commandEndClearsCancel : Obligations.CommandEndClearsCancel := by
  intro i s t h
  obtain ⟨u, hu, hend⟩ := exec_sharedEnd h
  cases hend with
  | raise e prim idx => exact ⟨fun _ => rfl, fun hk => absurd rfl hk⟩
  | finish e => exact ⟨fun _ => rfl, fun hk => absurd rfl hk⟩
  | ask p hk => exact ⟨fun hk' => absurd hk' hk, fun _ => hu.cancelPending⟩
  | signal p hk => exact ⟨fun hk' => absurd hk' hk, fun _ => hu.cancelPending⟩
  | askSink bytes hk => exact ⟨fun hk' => absurd hk' hk, fun _ => hu.cancelPending⟩

theorem HostSideKept.sharedEnd {s u t : State} (h : HostSideKept s u) (hend : SharedEnd u t) : HostSideKept s t := by
  obtain ⟨ht, hl, hc, hcur, hcfg, ho⟩ := h
  cases hend <;> exact ⟨ht, hl, hc, hcur, hcfg, ho⟩

theorem exec_hostSideKept {i : Instr} {s t : State} (h : exec i s = .next t) : HostSideKept s t := by
  obtain ⟨u, hu, hend⟩ := exec_sharedEnd h
  exact hu.toHostSideKept.sharedEnd hend

/-- Settles O15: a host action on a busy block is discarded or reaches no memory, and no command writes one. -/
theorem busyCommandSeesFixedInputs : Obligations.BusyCommandSeesFixedInputs := by
  intro s t hb hr h
  cases step_effect h with
  | idle hi => rw [hb] at hi; cases hi
  | command _ i _ run =>
    obtain ⟨ht, hl, hc, hcur, hcfg, -⟩ := exec_hostSideKept run
    exact ⟨ht, hl, hc, hcur, hcfg⟩
  | host a turn effect =>
    cases effect with
    | discarded | control | ignored | read => exact ⟨rfl, rfl, rfl, rfl, rfl⟩
    | command hi | memory hi =>
      have hi' : s.busy = false := hi
      rw [hb] at hi'
      cases hi'
    | reset act =>
      rw [resetNext, turn, act] at hr
      cases hr

/-! ### The registers as the host reads and writes them -/

/-- Settles O12: the byte that CTRL takes holds bits 0 and 1 of the word written. -/
theorem controlRegisterBits : Obligations.ControlRegisterBits := by
  intro v s
  refine ⟨?_, rfl⟩
  show hostWriteCtrl (v.setWidth 8) s = _
  have h0 : (v.setWidth 8).getLsbD 0 = v.getLsbD 0 := by simp
  have h1 : (v.setWidth 8).getLsbD 1 = v.getLsbD 1 := by simp
  rw [hostWriteCtrl, h0, h1]
  cases v.getLsbD 0 <;> cases v.getLsbD 1 <;> cases s.busy <;> simp

/-- The reserved indices read 0 (I13). -/
theorem hostValue_reserved {k : Nat} (h : 22 ≤ k) (s : State) : hostValue k s = .word 0 := by
  obtain ⟨n, rfl⟩ := Nat.exists_eq_add_of_le' h
  rfl

/-- The fields of STATUS as numbers: each stands at its place (R33). -/
theorem statusWord_toNat (s : State) : (statusWord s).toNat =
    s.busy.toNat + 2 * s.ovr.toNat + 4 * s.cancelPending.toNat + 16 * s.err.code.toNat + 256 * s.capState.code.toNat +
      1024 * s.inFrame.toNat + 2048 * s.csState.code.toNat := by
  have hbusy := s.busy.toNat_lt
  have hovr := s.ovr.toNat_lt
  have hcancel := s.cancelPending.toNat_lt
  have herr := s.err.code.isLt
  have hcap := s.capState.code.isLt
  have hframe := s.inFrame.toNat_lt
  simp only [statusWord, BitVec.toNat_append, BitVec.toNat_ofBool]
  rw [← Nat.shiftLeft_add_eq_or_of_lt hbusy, ← Nat.shiftLeft_add_eq_or_of_lt hovr,
    ← Nat.shiftLeft_add_eq_or_of_lt hcancel, ← Nat.shiftLeft_add_eq_or_of_lt (by simp),
    ← Nat.shiftLeft_add_eq_or_of_lt herr, ← Nat.shiftLeft_add_eq_or_of_lt hcap,
    ← Nat.shiftLeft_add_eq_or_of_lt hframe, ← Nat.shiftLeft_add_eq_or_of_lt s.csState.code.isLt]
  simp only [Nat.shiftLeft_eq, BitVec.toNat_ofNat]
  omega

/-- The fields of ERR_INFO as numbers: each stands at its place (R42). -/
theorem errInfoWord_toNat (s : State) :
    (errInfoWord s).toNat = s.errPrim.code.toNat + 65536 * s.errIdx.toNat := by
  have hprim := s.errPrim.code.isLt
  simp only [errInfoWord, BitVec.toNat_append, BitVec.toNat_ofNat]
  rw [← Nat.shiftLeft_add_eq_or_of_lt (by omega), ← Nat.shiftLeft_add_eq_or_of_lt (by simp)]
  simp only [Nat.shiftLeft_eq]
  omega

/-- A 32-bit register that a host read zero-extends reads as its number (R49). -/
theorem setWidth_eq_ofNat {v : Word32} {n : Nat} (h : v.toNat = n) : v.setWidth 64 = BitVec.ofNat 64 n := by
  rw [← h, ← BitVec.ofNat_toNat]

/-- Settles O14: STATUS and ERR_INFO by their numbers, every other index by its own case of the register file. -/
theorem hostRegisterMap : Obligations.HostRegisterMap := by
  intro s k v
  have hstatus : (statusWord s).setWidth 64 = BitVec.ofNat 64 (
      (if s.busy then 1 else 0) + 2 * (if s.ovr then 1 else 0) + 4 * (if s.cancelPending then 1 else 0) +
      16 * s.err.code.toNat + 256 * s.capState.code.toNat + 1024 * (if s.inFrame then 1 else 0) +
      2048 * s.csState.code.toNat) := by
    refine setWidth_eq_ofNat ((statusWord_toNat s).trans ?_)
    simp only [Bool.toNat, cond_eq_ite]
  refine ⟨?_, rfl, rfl, ?_, ?_, ?_, rfl, rfl, rfl, rfl, rfl, rfl, rfl, rfl, rfl, rfl, rfl, rfl, rfl, rfl, rfl, rfl, rfl,
    fun hk => ?_, fun hk => hostWriteReg_of_two_le hk v s⟩
  · show hostReadReg k s = _
    simp [hostReadReg, hostAct]
  · exact congrArg (some ∘ HostValue.word) hstatus
  · intro hw
    show some (hostValue 3 s) = _
    simp only [hostValue, hw, if_true]
  · exact congrArg (some ∘ HostValue.word) (setWidth_eq_ofNat (errInfoWord_toNat s))
  · exact congrArg some (hostValue_reserved hk s)

end Sys2Proof.Proofs
end

section
/-! PROOFS. The overrun flag (R35): only a host action changes it, and no command reads it. -/

namespace Sys2Proof.Proofs

open Sys2Proof Sys2Proof.Machine Sys2Proof.Safety Sys2Proof.Laws

/-! ### Commands do not read OVR -/

/-- The state with OVR set to `b`. -/
def withOvr (b : Bool) (s : State) : State := { s with ovr := b }

/-- The answer of a step with OVR set to `b` in its next state. -/
def answerWithOvr (b : Bool) : StepResult → StepResult
  | .next t => .next (withOvr b t)
  | .fault r => .fault r
  | .refused r => .refused r

theorem next_withOvr {b : Bool} {t u : State} (h : t = withOvr b u) :
    (.next t : StepResult) = answerWithOvr b (.next u) :=
  congrArg Host.Outcome.next h

/-- A step that does the same whatever OVR is, and leaves OVR as it is (R35). -/
def IgnoresOvr (f : State → StepResult) : Prop := ∀ b s, f (withOvr b s) = answerWithOvr b (f s)

@[simp] theorem withOvr_pcSeq (b : Bool) (s : State) : (withOvr b s).pcSeq = s.pcSeq := rfl
@[simp] theorem withOvr_ans (b : Bool) (s : State) : (withOvr b s).ans = s.ans := rfl
@[simp] theorem withOvr_cfg (b : Bool) (s : State) : (withOvr b s).cfg = s.cfg := rfl
@[simp] theorem withOvr_ti (b : Bool) (s : State) : (withOvr b s).ti = s.ti := rfl
@[simp] theorem withOvr_tmem (b : Bool) (s : State) : (withOvr b s).tmem = s.tmem := rfl
@[simp] theorem withOvr_lmem (b : Bool) (s : State) : (withOvr b s).lmem = s.lmem := rfl
@[simp] theorem withOvr_abuf (b : Bool) (s : State) : (withOvr b s).abuf = s.abuf := rfl
@[simp] theorem withOvr_csState (b : Bool) (s : State) : (withOvr b s).csState = s.csState := rfl
@[simp] theorem withOvr_cancelPending (b : Bool) (s : State) : (withOvr b s).cancelPending = s.cancelPending := rfl
@[simp] theorem withOvr_pollCount (b : Bool) (s : State) : (withOvr b s).pollCount = s.pollCount := rfl
@[simp] theorem withOvr_capLen (b : Bool) (s : State) : (withOvr b s).capLen = s.capLen := rfl
@[simp] theorem withOvr_capRemain (b : Bool) (s : State) : (withOvr b s).capRemain = s.capRemain := rfl
@[simp] theorem withOvr_capCursor (b : Bool) (s : State) : (withOvr b s).capCursor = s.capCursor := rfl
@[simp] theorem withOvr_capPrev (b : Bool) (s : State) : (withOvr b s).capPrev = s.capPrev := rfl
@[simp] theorem withOvr_capCur (b : Bool) (s : State) : (withOvr b s).capCur = s.capCur := rfl
@[simp] theorem withOvr_inFrame (b : Bool) (s : State) : (withOvr b s).inFrame = s.inFrame := rfl

theorem csBlocked_withOvr (p : Port) (b : Bool) (s : State) : csBlocked p (withOvr b s) = csBlocked p s := rfl

theorem wrFirst_withOvr (b : Bool) (p : Port) (addr val : Half) (s : State) :
    wrFirst p addr val (withOvr b s) = withOvr b (wrFirst p addr val s) := by
  unfold wrFirst
  rw [csBlocked_withOvr]
  split <;> rfl

theorem rdFirst_withOvr (b : Bool) (p : Port) (addr : Half) (s : State) :
    rdFirst p addr (withOvr b s) = withOvr b (rdFirst p addr s) := by
  unfold rdFirst
  rw [csBlocked_withOvr]
  split <;> rfl

theorem endWrite_withOvr (b : Bool) (p : Port) (s : State) : endWrite p (withOvr b s) = withOvr b (endWrite p s) := by
  simp only [endWrite, withOvr_ans]
  split <;> rfl

theorem endRead_withOvr (b : Bool) (p : Port) (s : State) : endRead p (withOvr b s) = withOvr b (endRead p s) := by
  simp only [endRead, withOvr_ans]
  split <;> rfl

theorem endModify_withOvr (b : Bool) (p : Port) (addr : Half) (modify : Half → Half) (s : State) :
    endModify p addr modify (withOvr b s) = withOvr b (endModify p addr modify s) := by
  simp only [endModify, withOvr_ans]
  split <;> rfl

theorem endGetBit_withOvr (b : Bool) (p : Port) (bit : BitVec 4) (s : State) :
    endGetBit p bit (withOvr b s) = withOvr b (endGetBit p bit s) := by
  simp only [endGetBit, withOvr_ans]
  split <;> rfl

theorem wrCmd_ignoresOvr (p : Port) (addr val : Half) : IgnoresOvr (wrCmd p addr val) := by
  intro b s
  simp only [wrCmd, wrFirst_withOvr, endWrite_withOvr, withOvr_pcSeq]
  (repeat' split) <;> rfl

theorem rdCmd_ignoresOvr (p : Port) (addr : Half) : IgnoresOvr (rdCmd p addr) := by
  intro b s
  simp only [rdCmd, rdFirst_withOvr, endRead_withOvr, withOvr_pcSeq]
  (repeat' split) <;> rfl

theorem getBitCmd_ignoresOvr (p : Port) (addr : Half) (bit : BitVec 4) : IgnoresOvr (getBitCmd p addr bit) := by
  intro b s
  simp only [getBitCmd, rdFirst_withOvr, endGetBit_withOvr, withOvr_pcSeq]
  (repeat' split) <;> rfl

theorem modifyCmd_ignoresOvr (p : Port) (addr : Half) (modify : Half → Half) :
    IgnoresOvr (modifyCmd p addr modify) := by
  intro b s
  simp only [modifyCmd, rdFirst_withOvr, endModify_withOvr, endWrite_withOvr, withOvr_pcSeq]
  (repeat' split) <;> rfl

theorem tableEntry_ignoresOvr (p : Port) (tbase tlen : Half) : IgnoresOvr (tableEntry p tbase tlen) := by
  intro b s
  unfold tableEntry
  rw [withOvr_ti, withOvr_cfg, withOvr_tmem]
  (repeat' split) <;> rfl

theorem tblCmd_ignoresOvr (p : Port) (tbase tlen : Half) : IgnoresOvr (tblCmd p tbase tlen) := by
  intro b s
  have hfirst := tableEntry_ignoresOvr p tbase tlen b { s with tblCount := 0, ti := 0 }
  have hnext := tableEntry_ignoresOvr p tbase tlen b { s with ti := s.ti + 1 }
  unfold tblCmd tableNext tableFirst
  rw [withOvr_pcSeq, withOvr_ans]
  split
  · rfl
  · split
    · split
      · rfl
      · exact hfirst
    · split
      · rfl
      · exact hnext
    · exact hfirst

theorem execDeselect_ignoresOvr : IgnoresOvr execDeselect := by
  intro b s
  unfold execDeselect
  rw [withOvr_pcSeq]
  split <;> rfl

theorem withBuffer_ignoresOvr {lbase llen : Half} {last : List Byte → State → State}
    (h : ∀ b buffer s, last buffer (withOvr b s) = withOvr b (last buffer s)) :
    IgnoresOvr fun s => withBuffer lbase llen s fun buffer => .next (last buffer s) := by
  intro b s
  beta_reduce
  unfold withBuffer
  rw [withOvr_cfg, withOvr_lmem]
  split
  · rfl
  · split
    · rfl
    · exact next_withOvr (h b _ s)

theorem countLine_withOvr (b : Bool) (s : State) (o : LineOutcome) :
    countLine (withOvr b s) o = withOvr b (countLine s o) := by
  cases o <;> rfl

theorem foldBuffer_withOvr (b : Bool) (buffer : List Byte) (s : State) :
    foldBuffer buffer (withOvr b s) = withOvr b (foldBuffer buffer s) := by
  unfold foldBuffer
  exact List.foldl_hom (withOvr b) (init := startFold s) fun u line => countLine_withOvr b u (decodeLine line)

theorem endLine_withOvr (b : Bool) (o : LineOutcome) (s : State) :
    endLine o (withOvr b s) = withOvr b (endLine o s) := by
  cases o <;> rfl

theorem execNmeaBuf_ignoresOvr (lbase llen : Half) : IgnoresOvr (execNmeaBuf lbase llen) :=
  withBuffer_ignoresOvr (last := fun buffer s => finish .ok (foldBuffer buffer s)) fun b buffer s => by
    rw [foldBuffer_withOvr]
    rfl

theorem execNmeaLine_ignoresOvr (lbase llen : Half) : IgnoresOvr (execNmeaLine lbase llen) :=
  withBuffer_ignoresOvr fun b buffer s => endLine_withOvr b (decodeLine (firstSegment buffer)) s

/-! ### CAPTURE does not read OVR -/

theorem streamNext_withOvr (b : Bool) (s : State) : streamNext (withOvr b s) = withOvr b (streamNext s) := by
  unfold streamNext
  rw [withOvr_capRemain]
  split <;> rfl

theorem pollAgain_withOvr (b : Bool) (s : State) : pollAgain (withOvr b s) = withOvr b (pollAgain s) := by
  unfold pollAgain
  rw [withOvr_cancelPending, withOvr_pollCount, withOvr_cfg]
  (repeat' split) <;> rfl

theorem openBurst_withOvr (b : Bool) (s : State) : openBurst (withOvr b s) = withOvr b (openBurst s) := by
  unfold openBurst
  rw [withOvr_capLen, withOvr_cfg]
  (repeat' split) <;> rfl

theorem flush_ignoresOvr (n : Nat) (k : Point) : IgnoresOvr (flush n k) := by
  intro b s
  unfold flush
  rw [withOvr_abuf]
  split <;> rfl

theorem storeByte_withOvr (site : StoreSite) (b : Bool) (s : State) :
    storeByte site (withOvr b s) = storeByte site s := by
  cases site <;> rfl

theorem putByte_withOvr (x : Byte) (b : Bool) (s : State) :
    putByte x (withOvr b s) = (putByte x s).map (withOvr b) := by
  unfold putByte
  rw [withOvr_cfg, withOvr_capCursor]
  split <;> rfl

theorem store_ignoresOvr {site : StoreSite} {next : State → StepResult} (h : IgnoresOvr next) :
    IgnoresOvr (store site next) := by
  intro b s
  unfold store
  rw [withOvr_capCursor, withOvr_cfg, storeByte_withOvr, putByte_withOvr]
  split
  · rfl
  · cases putByte (storeByte site s) s with
    | error f => rfl
    | ok u => exact h b u

theorem streamNext_ignoresOvr : IgnoresOvr fun s => .next (streamNext s) :=
  fun b s => next_withOvr (streamNext_withOvr b s)

theorem afterData_ignoresOvr : IgnoresOvr afterData := by
  intro b s
  unfold afterData
  rw [withOvr_capPrev, withOvr_capCur]
  split
  · exact flush_ignoresOvr _ _ b s
  · exact streamNext_ignoresOvr b s

theorem afterStore_ignoresOvr (site : StoreSite) : IgnoresOvr (afterStore site) := by
  cases site with
  | startFF => exact store_ignoresOvr streamNext_ignoresOvr
  | startD8 => exact streamNext_ignoresOvr
  | data => exact afterData_ignoresOvr

theorem examineWindow_ignoresOvr : IgnoresOvr examineWindow := by
  intro b s
  unfold examineWindow
  rw [withOvr_inFrame, withOvr_capPrev, withOvr_capCur]
  split
  · exact store_ignoresOvr (afterStore_ignoresOvr .data) b s
  · split
    · exact store_ignoresOvr (afterStore_ignoresOvr .startFF) b { s with inFrame := true }
    · exact streamNext_ignoresOvr b s

theorem afterPull_ignoresOvr : IgnoresOvr afterPull := by
  intro b s
  unfold afterPull
  rw [withOvr_ans]
  split
  · rfl
  · next v _ => exact examineWindow_ignoresOvr b (slideWindow (v.setWidth 8) s)

theorem afterRotBurst_ignoresOvr (site : StoreSite) : IgnoresOvr (afterRotBurst site) := by
  intro b s
  unfold afterRotBurst
  rw [withOvr_ans, storeByte_withOvr, putByte_withOvr]
  split
  · rfl
  · cases putByte (storeByte site s) s with
    | error f => rfl
    | ok u => exact afterStore_ignoresOvr site b u

theorem execCapture_ignoresOvr : IgnoresOvr execCapture := by
  intro b s
  unfold execCapture
  rw [withOvr_pcSeq]
  split
  case h_9 => exact afterPull_ignoresOvr b s
  case h_10 => exact flush_ignoresOvr _ _ b { s with csState := .deselected }
  case h_13 => exact afterRotBurst_ignoresOvr _ b s
  all_goals refine next_withOvr ?_
  case h_1 => unfold afterArmClear; rw [withOvr_ans]; split <;> rfl
  case h_2 =>
    unfold afterArmStart; rw [withOvr_ans]; split
    exacts [rfl, pollAgain_withOvr b { s with capState := .armed }]
  case h_3 =>
    unfold afterPoll; rw [withOvr_ans, withOvr_cfg]; split
    · rfl
    · split
      exacts [rfl, pollAgain_withOvr b s]
  case h_4 => unfold afterSize1; rw [withOvr_ans]; split <;> rfl
  case h_5 => unfold afterSize2; rw [withOvr_ans]; split <;> rfl
  case h_6 =>
    unfold afterSize3; rw [withOvr_ans]; split
    exacts [rfl, openBurst_withOvr b { s with capLen := _ }]
  case h_7 => rfl
  case h_8 =>
    unfold afterBurstOpen; rw [withOvr_ans]; split
    exacts [rfl, streamNext_withOvr b s]
  case h_11 => unfold afterRotFlush; rw [withOvr_ans]; split <;> rfl
  case h_12 => rfl
  case h_14 => unfold afterEofFlush; rw [withOvr_ans]; split <;> rfl
  case h_15 => rfl
  case h_16 => rfl
  case h_17 => unfold captureFirst; rw [withOvr_csState]; split <;> rfl

/-! ### OVR over a step -/

theorem exec_ignoresOvr (i : Instr) : IgnoresOvr (exec i) := by
  intro b s
  rcases exec_family i with rfl | ⟨p, a, v, hf⟩ | ⟨p, a, hf⟩ | ⟨p, a, n, -, hf⟩ | ⟨p, a, m, hf⟩ | ⟨p, a, k, hf⟩ | rfl |
    rfl | ⟨l, n, rfl⟩ | ⟨l, n, rfl⟩
  · rfl
  · simpa only [hf] using wrCmd_ignoresOvr p a v b s
  · simpa only [hf] using rdCmd_ignoresOvr p a b s
  · simpa only [hf] using tblCmd_ignoresOvr p a n b s
  · simpa only [hf] using modifyCmd_ignoresOvr p a m b s
  · simpa only [hf] using getBitCmd_ignoresOvr p a k b s
  · exact execCapture_ignoresOvr b s
  · exact execDeselect_ignoresOvr b s
  · exact execNmeaLine_ignoresOvr l n b s
  · exact execNmeaBuf_ignoresOvr l n b s

/-- Taking a command leaves OVR as it is (R118). -/
theorem takeCommand_ovr (c : Desc) (s : State) : (takeCommand c s).ovr = s.ovr := by
  rcases takeCommand_cases c s with ⟨-, h⟩ | ⟨-, h⟩ <;> rw [h]

theorem hostWriteCtrl_ovr (v : BitVec 64) (s : State) :
    (hostWriteCtrl (v.setWidth 8) s).ovr = (s.ovr && !v.getLsbD 1) := by
  simp [hostWriteCtrl]

/-- R35: a set OVR is cleared by a host reset and a write of 1 to CTRL.CLR_OVR only. -/
theorem step_keeps_set_ovr {s t : State} (h : step s = .next t) (ho : s.ovr = true) :
    t.ovr = true ∨ (t.ovr = false ∧
      ((∃ rest, s.inputs = .host .reset :: rest) ∨
        (∃ v rest, s.inputs = .host (.writeReg 1 v) :: rest ∧ v.getLsbD 1 = true))) := by
  cases step_effect h with
  | idle _ next => exact .inl (next ▸ ho)
  | command _ i _ run => exact .inl ((exec_hostSideKept run).ovr.trans ho)
  | host a turn effect =>
    cases effect with
    | discarded => exact .inl rfl
    | command _ c => exact .inl ((takeCommand_ovr c _).trans ho)
    | memory | ignored | read => exact .inl ho
    | reset act => exact .inr ⟨rfl, .inl ⟨_, act ▸ turn⟩⟩
    | control v act =>
      rw [hostWriteCtrl_ovr, show (turnTaken s).ovr = true from ho]
      cases hv : v.getLsbD 1 with
      | false => exact .inl rfl
      | true => exact .inr ⟨rfl, .inr ⟨v, _, act ▸ turn, hv⟩⟩

/-- R35: a step of an idle block never sets OVR. -/
theorem step_of_idle_keeps_clear_ovr {s t : State} (h : step s = .next t) (hb : s.busy = false) (ho : s.ovr = false) :
    t.ovr = false := by
  cases step_effect h with
  | idle _ next => exact next ▸ ho
  | command hb' => rw [hb] at hb'; cases hb'
  | host a turn effect =>
    cases effect with
    | discarded hb' =>
      have hb'' : s.busy = true := hb'
      rw [hb] at hb''
      cases hb''
    | command _ c => exact (takeCommand_ovr c _).trans ho
    | memory | ignored | read => exact ho
    | reset => rfl
    | control v =>
      rw [hostWriteCtrl_ovr]
      show (s.ovr && _) = false
      rw [ho, Bool.false_and]

/-- Settles O11, clause by clause: host writes, steps from a set and from a clear OVR, and commands, which ignore it. -/
theorem overrunFlagIsSticky : Obligations.OverrunFlagIsSticky := by
  refine ⟨fun s c i e b hb => ?_, fun s t => step_keeps_set_ovr, fun s v hv => ⟨?_, rfl⟩,
    fun s t => step_of_idle_keeps_clear_ovr, fun i s t b h => ⟨(exec_hostSideKept h).ovr, ?_⟩⟩
  · exact ⟨if_pos hb, if_pos hb, if_pos hb⟩
  · show (hostWriteCtrl (v.setWidth 8) s).ovr = false
    rw [hostWriteCtrl_ovr, hv, Bool.not_true, Bool.and_false]
  · show exec i (withOvr b s) = .next (withOvr b t)
    rw [exec_ignoresOvr i b s, h]
    rfl

end Sys2Proof.Proofs
end

section
/-! PROOFS. What the units of the block change: the frame of the register driver (R140), and the fold of the NMEA decoder
(R255 to R257). -/

namespace Sys2Proof.Proofs

open Sys2Proof Sys2Proof.Machine Sys2Proof.Safety Sys2Proof.Laws

/-! ### The frame of the register driver -/

/-- RESULT and whether it was written stay as they were (R41). -/
def KeepsResult (s t : State) : Prop := t.result = s.result ∧ t.resultWritten = s.resultWritten

/-- TBL_COUNT and TI stay as they were (R43). -/
def KeepsTable (s t : State) : Prop := t.tblCount = s.tblCount ∧ t.ti = s.ti

theorem wrCmd_keeps {p : Port} {addr val : Half} {s t : State} (h : wrCmd p addr val s = .next t) :
    KeepsResult s t ∧ KeepsTable s t := by
  rcases wrCmd_cases p addr val s with ⟨_, h'⟩ | ⟨_, _, _, _, h'⟩ | ⟨_, _, _, _, h'⟩ | ⟨_, _, h'⟩ | ⟨_, _, _, h'⟩ |
    ⟨_, _, _, h'⟩ <;> rw [h'] at h <;> cases h <;> exact ⟨⟨rfl, rfl⟩, rfl, rfl⟩

theorem modifyCmd_keeps {p : Port} {addr : Half} {modify : Half → Half} {s t : State}
    (h : modifyCmd p addr modify s = .next t) : KeepsResult s t ∧ KeepsTable s t := by
  rcases modifyCmd_cases p addr modify s with ⟨_, h'⟩ | ⟨_, _, _, _, _, h'⟩ | ⟨_, _, _, _, _, h'⟩ | ⟨_, _, _, h'⟩ |
    ⟨v, _, _, _, h'⟩ | ⟨_, _, h'⟩ | ⟨_, _, _, h'⟩ | ⟨_, _, _, h'⟩ <;> rw [h'] at h <;> cases h <;>
    exact ⟨⟨rfl, rfl⟩, rfl, rfl⟩

theorem rdCmd_keepsTable {p : Port} {addr : Half} {s t : State} (h : rdCmd p addr s = .next t) : KeepsTable s t := by
  rcases rdCmd_cases p addr s with ⟨_, h'⟩ | ⟨_, _, _, h'⟩ | ⟨_, _, _, h'⟩ | ⟨_, _, _, h'⟩ | ⟨v, _, _, _, h'⟩
    <;> rw [h'] at h <;> cases h <;> exact ⟨rfl, rfl⟩

theorem getBitCmd_keepsTable {p : Port} {addr : Half} {bit : BitVec 4} {s t : State}
    (h : getBitCmd p addr bit s = .next t) : KeepsTable s t := by
  rcases getBitCmd_cases p addr bit s with ⟨_, h'⟩ | ⟨_, _, _, h'⟩ | ⟨_, _, _, h'⟩ | ⟨_, _, _, h'⟩ | ⟨v, _, _, _, h'⟩
    <;> rw [h'] at h <;> cases h <;> exact ⟨rfl, rfl⟩

theorem tableEntry_keepsResult {p : Port} {tbase tlen : Half} {s t : State}
    (h : tableEntry p tbase tlen s = .next t) : KeepsResult s t := by
  rcases tableEntry_cases p tbase tlen s with ⟨_, h'⟩ | ⟨_, _, _, h'⟩ | ⟨e, _, _, _, _, h'⟩ | ⟨e, _, _, _, _, h'⟩
    <;> rw [h'] at h <;> cases h <;> exact ⟨rfl, rfl⟩

theorem tblCmd_keepsResult {p : Port} {tbase tlen : Half} {s t : State} (h : tblCmd p tbase tlen s = .next t) :
    KeepsResult s t := by
  rcases tblCmd_cases p tbase tlen s with ⟨_, h'⟩ | ⟨_, _, h'⟩ | ⟨_, _, _, h'⟩ | ⟨_, _, _, h'⟩ | ⟨_, _, _, h'⟩
    <;> rw [h'] at h
  · cases h; exact ⟨rfl, rfl⟩
  · cases h; exact ⟨rfl, rfl⟩
  · cases h; exact ⟨rfl, rfl⟩
  · exact tableEntry_keepsResult (s := { s with ti := s.ti + 1 }) h
  · exact tableEntry_keepsResult (s := { s with tblCount := 0, ti := 0 }) h

/-- The commands that write RESULT: RD and GETB (R41). -/
def resultCommands (addr : Half) (bit : BitVec 4) : List Instr :=
  [.rdA8D8 addr, .rdA16D8 addr, .rdA8D16 addr, .rdA16D16 addr, .rdTB addr, .getbA8D8 addr bit,
    .getbA16D8 addr bit, .getbA8D16 addr bit, .getbA16D16 addr bit, .getbTB addr bit]

/-- The commands that write TBL_COUNT and TI: TBL (R43). -/
def tableCommands (tbase tlen : Half) : List Instr :=
  [.tblA8D8 tbase tlen, .tblA16D8 tbase tlen, .tblA8D16 tbase tlen, .tblA16D16 tbase tlen]

/-- The register driver's commands that write neither: NOP, WR, SETB and CLRB (R140). -/
def silentCommands (addr val : Half) (bit : BitVec 4) : List Instr :=
  [.nop, .wrA8D8 addr val, .wrA16D8 addr val, .wrA8D16 addr val, .wrA16D16 addr val, .wrTB addr val,
    .setbA8D8 addr bit, .setbA16D8 addr bit, .setbA8D16 addr bit, .setbA16D16 addr bit, .setbTB addr bit,
    .clrbA8D8 addr bit, .clrbA16D8 addr bit, .clrbA8D16 addr bit, .clrbA16D16 addr bit, .clrbTB addr bit]

section
variable {i : Instr} {s t : State}

theorem resultCommands_shape {addr : Half} {bit : BitVec 4} (hi : i ∈ resultCommands addr bit)
    (h : exec i s = .next t) : RegisterShape s t ∧ KeepsTable s t := by
  cases i with
  | rdA8D8 | rdA16D8 | rdA8D16 | rdA16D16 | rdTB =>
    simp only [exec] at h
    exact ⟨rdCmd_shape h, rdCmd_keepsTable h⟩
  | getbA8D8 | getbA16D8 | getbA8D16 | getbA16D16 | getbTB =>
    simp only [exec] at h
    exact ⟨getBitCmd_shape h, getBitCmd_keepsTable h⟩
  | _ => simp [resultCommands] at hi

theorem tableCommands_shape {tbase tlen : Half} (hi : i ∈ tableCommands tbase tlen)
    (h : exec i s = .next t) : RegisterShape s t ∧ KeepsResult s t := by
  cases i with
  | tblA8D8 | tblA16D8 | tblA8D16 | tblA16D16 =>
    simp only [exec] at h
    exact ⟨tblCmd_shape h, tblCmd_keepsResult h⟩
  | _ => simp [tableCommands] at hi

theorem silentCommands_shape {addr val : Half} {bit : BitVec 4} (hi : i ∈ silentCommands addr val bit)
    (h : exec i s = .next t) : RegisterShape s t ∧ KeepsResult s t ∧ KeepsTable s t := by
  cases i with
  | nop =>
    cases h
    exact ⟨⟨s, rfl, .inr (.inl rfl)⟩, ⟨rfl, rfl⟩, rfl, rfl⟩
  | wrA8D8 | wrA16D8 | wrA8D16 | wrA16D16 | wrTB =>
    simp only [exec] at h
    exact ⟨wrCmd_shape h, wrCmd_keeps h⟩
  | setbA8D8 | setbA16D8 | setbA8D16 | setbA16D16 | setbTB
  | clrbA8D8 | clrbA16D8 | clrbA8D16 | clrbA16D16 | clrbTB =>
    simp only [exec] at h
    exact ⟨modifyCmd_shape h, modifyCmd_keeps h⟩
  | _ => simp [silentCommands] at hi

end

/-- What no command of the register driver changes (R140). -/
structure RegisterFrame (s t : State) : Prop where
  host : HostSideKept s t
  capture : t.capState = s.capState ∧ t.inFrame = s.inFrame ∧ t.csState = s.csState ∧ t.capLen = s.capLen ∧
    t.capRemain = s.capRemain ∧ t.capCursor = s.capCursor ∧ t.capPrev = s.capPrev ∧ t.capCur = s.capCur ∧
    t.capOut = s.capOut ∧ t.pollCount = s.pollCount
  decoder : t.nmeaOk = s.nmeaOk ∧ t.nmeaBad = s.nmeaBad ∧ t.nmeaUnk = s.nmeaUnk ∧ t.loc = s.loc
  outside : t.abuf = s.abuf ∧ t.sink = s.sink ∧ t.inputs = s.inputs

/-- A step of the register driver leaves everything of its frame alone, whichever of its shapes it has. -/
theorem RegisterShape.frame {s t : State} (h : RegisterShape s t) : RegisterFrame s t := by
  obtain ⟨u, hu, ht⟩ := h
  unfold RegisterOnly at hu
  rw [hu] at ht
  rcases ht with ⟨e, prim, idx, rfl⟩ | rfl | ⟨p, k, -, -, rfl⟩ | rfl <;>
    exact ⟨⟨rfl, rfl, rfl, rfl, rfl, rfl⟩, ⟨rfl, rfl, rfl, rfl, rfl, rfl, rfl, rfl, rfl, rfl⟩, ⟨rfl, rfl, rfl, rfl⟩,
      rfl, rfl, rfl⟩

/-- Settles O31: the frame holds for every shape of a register step, and RESULT and TBL_COUNT are kept family by family. -/
theorem registerDriverFrame : Obligations.RegisterDriverFrame := by
  intro addr val bit s t i reads tables others hi h
  have key : RegisterShape s t ∧ (i ∉ reads → KeepsResult s t) ∧ (i ∉ tables → KeepsTable s t) := by
    rcases List.mem_append.1 hi with hi | hi
    · rcases List.mem_append.1 hi with hi | hi
      · obtain ⟨hs, ht⟩ := resultCommands_shape hi h
        exact ⟨hs, fun hn => absurd hi hn, fun _ => ht⟩
      · obtain ⟨hs, hr⟩ := tableCommands_shape hi h
        exact ⟨hs, fun _ => hr, fun hn => absurd hi hn⟩
    · obtain ⟨hs, hr, ht⟩ := silentCommands_shape hi h
      exact ⟨hs, fun _ => hr, fun _ => ht⟩
  obtain ⟨hs, hresult, htable⟩ := key
  obtain ⟨host, ⟨hcap, hframe, hcs, hlen, hrem, hcur, hprev, hcurb, hout, hpoll⟩, ⟨hok, hbad, hunk, hloc⟩, habuf, hsink,
    hin⟩ := RegisterShape.frame hs
  exact ⟨host.cfg, host.cmdLast, host.curCmd, host.ovr, hcap, hframe, hcs, hlen, hrem, hcur, hprev, hcurb, hout, hpoll, hok,
    hbad, hunk, hloc, host.tmem, host.lmem, habuf, hsink, hin, hresult, htable⟩

/-! ### The fold of the NMEA decoder -/

/-- A line's outcome is that of an accepted line. -/
def isAccepted : LineOutcome → Bool
  | .accepted _ _ => true
  | _ => false

/-- What a line's outcome does to the location registers (R256, R257). -/
def applyOutcome (l : Loc) : LineOutcome → Loc
  | .accepted _ u => u.apply l
  | _ => l

/-- A line's outcome is one of the bad ones (R257). -/
def isBad : LineOutcome → Bool
  | .delimiterMissing | .mismatch | .truncated => true
  | .unknown | .accepted _ _ => false

theorem counter_add_succ (c : Half) (n : Nat) : c + 1#16 + BitVec.ofNat 16 n = c + BitVec.ofNat 16 (n + 1) := by
  rw [BitVec.add_assoc, BitVec.ofNat_add, BitVec.add_comm 1#16]

/-- Counting outcomes in order: the location registers take the accepted updates, and each counter the number of its
outcomes (R257). -/
theorem foldl_countLine (os : List LineOutcome) (s : State) :
    os.foldl countLine s = { s with
      loc := os.foldl applyOutcome s.loc
      nmeaOk := s.nmeaOk + BitVec.ofNat 16 (os.countP isAccepted)
      nmeaBad := s.nmeaBad + BitVec.ofNat 16 (os.countP isBad)
      nmeaUnk := s.nmeaUnk + BitVec.ofNat 16 (os.countP (· == .unknown)) } := by
  induction os generalizing s with
  | nil => simp
  | cons o os ih =>
    rw [List.foldl_cons, ih]
    cases o <;> simp [countLine, applyOutcome, isAccepted, isBad, List.countP_cons, counter_add_succ]

/-- Every outcome is accepted, bad or unknown, and only one of them. -/
theorem length_eq_countP (os : List LineOutcome) :
    os.length = os.countP isAccepted + os.countP (· == .unknown) + os.countP isBad := by
  induction os with
  | nil => rfl
  | cons o os ih => cases o <;> simp [isAccepted, isBad, List.countP_cons, ih] <;> omega

/-- Outcomes without an accepted line leave the location registers as they are. -/
theorem foldl_applyOutcome_of_none {os : List LineOutcome} (h : os.filter isAccepted = []) (l : Loc) :
    os.foldl applyOutcome l = l := by
  induction os with
  | nil => rfl
  | cons o os ih =>
    rw [List.filter_eq_nil_iff] at h
    cases o with
    | accepted kind u => exact absurd rfl (h _ List.mem_cons_self)
    | _ => exact ih (List.filter_eq_nil_iff.2 fun x hx => h x (List.mem_cons_of_mem _ hx))

/-- The outcomes of the non-empty segments of a buffer, in order (R257). -/
def bufferOutcomes (buffer : List Byte) : List LineOutcome :=
  ((segments buffer).filter (fun l => !l.isEmpty)).map decodeLine

theorem foldBuffer_eq_foldl (buffer : List Byte) (s : State) :
    foldBuffer buffer s = (bufferOutcomes buffer).foldl countLine (startFold s) := by
  have hp : (fun l : List Byte => decide (l ≠ [])) = fun l => !l.isEmpty := by
    funext l
    cases l <;> rfl
  rw [foldBuffer, bufferOutcomes, List.foldl_map, hp]

/-- A buffer of `n` bytes has at most half of `n + 1` non-empty segments: each takes a byte, and a terminator stands between
two (R241). -/
theorem nonempty_segments_bound (buffer : List Byte) :
    2 * ((segments buffer).filter (fun l => !l.isEmpty)).length ≤ buffer.length + 1 := by
  induction h : buffer.length using Nat.strong_induction_on generalizing buffer with
  | _ n ih =>
    subst h
    rcases splitAtBytes_cases isTerminator buffer with ⟨hs, -⟩ | ⟨piece, c, rest, rfl, -, -, hs⟩
    · rw [segments, hs]
      cases buffer <;> simp
    · have hrest := ih rest.length (by simp; omega) rest rfl
      rw [segments] at hrest
      rw [segments, hs]
      cases piece <;> simp at hrest ⊢ <;> omega

/-- NMEA.BUF on a written range ends with the fold of the buffer (R257). -/
theorem execNmeaBuf_of_readRange {lbase llen : Half} {s : State} {buffer : List Byte}
    (hr : lbase.toNat + llen.toNat ≤ s.cfg.lmemBytes)
    (hb : Memory.readRange (α := Byte) s.lmem lbase.toNat llen.toNat = .ok buffer) :
    exec (.nmeaBuf lbase llen) s = .next (finish .ok (foldBuffer buffer s)) := by
  show withBuffer lbase llen s _ = _
  rw [withBuffer, if_neg (not_lt.2 hr), hb]

/-- Settles O46: the fold over the lines is the fold over their outcomes, whose counters and updates are known. -/
theorem nmeaBufCountsLines : Obligations.NmeaBufCountsLines := by
  intro lbase llen s buffer hr hb outcomes accepted unknown
  have hfold : foldBuffer buffer s = _ := (foldBuffer_eq_foldl buffer s).trans (foldl_countLine _ _)
  have hloc : (foldBuffer buffer s).loc = outcomes.foldl applyOutcome {} := by
    rw [hfold]
    rfl
  have hacc : outcomes.countP isAccepted = accepted.length := List.countP_eq_length_filter
  have hunk : outcomes.countP (· == .unknown) = unknown.length := List.countP_eq_length_filter
  have hbad : outcomes.countP isBad = outcomes.length - accepted.length - unknown.length := by
    have := length_eq_countP outcomes
    omega
  refine ⟨?_, hloc, fun hn => hloc.trans (foldl_applyOutcome_of_none hn _), ?_⟩
  · rw [execNmeaBuf_of_readRange hr hb, hloc, ← hbad, ← hacc, ← hunk, hfold]
    simp [finish, startFold, outcomes, bufferOutcomes]
  · have hlen := (readRange_inv hb).1
    have hbound := nonempty_segments_bound buffer
    have := llen.isLt
    simp only [outcomes, List.length_map]
    omega

end Sys2Proof.Proofs
end

section
/-! PROOFS. The invariant of the sequencer (R34, R36, R50, R190): a legal descriptor decodes, a command steps from its own
program points to its own, CAP_STATE is ARMED or STREAMING only inside a capture, and no command is refused. -/

namespace Sys2Proof.Proofs

open Sys2Proof Sys2Proof.Machine Sys2Proof.Safety Sys2Proof.Laws

/-! ### A legal descriptor decodes (R117) -/

section
variable {port : BitVec 3} {bit : BitVec 4} (addr val : Half)

theorem port_cases (hp : port.toNat ≤ 4) : port = 0 ∨ port = 1 ∨ port = 2 ∨ port = 3 ∨ port = 4 := by
  revert port
  decide

theorem decodeWr_ok (hp : port.toNat ≤ 4) (hb : bit = 0) : ∃ i, decodeWr port bit addr val = .ok i := by
  subst hb
  rcases port_cases hp with rfl | rfl | rfl | rfl | rfl <;> exact ⟨_, rfl⟩

theorem decodeRd_ok (hp : port.toNat ≤ 4) (hb : bit = 0) : ∃ i, decodeRd port bit addr 0 = .ok i := by
  subst hb
  rcases port_cases hp with rfl | rfl | rfl | rfl | rfl <;> exact ⟨_, rfl⟩

theorem decodeTbl_ok (hp : port.toNat ≤ 3) (hb : bit = 0) : ∃ i, decodeTbl port bit addr val = .ok i := by
  subst hb
  rcases port_cases (hp.trans (by omega)) with rfl | rfl | rfl | rfl | rfl
  case inr.inr.inr.inr => exact absurd hp (by decide)
  all_goals exact ⟨_, rfl⟩

theorem decodeSetb_ok (hp : port.toNat ≤ 4) (hb : port.toNat = 2 ∨ port.toNat = 3 ∨ bit.toNat ≤ 7) :
    ∃ i, decodeSetb port bit addr 0 = .ok i := by
  rcases port_cases hp with rfl | rfl | rfl | rfl | rfl
  case inr.inr.inl | inr.inr.inr.inl => exact ⟨_, rfl⟩
  all_goals simp [decodeSetb, show bit.toNat ≤ 7 by simpa using hb]

theorem decodeClrb_ok (hp : port.toNat ≤ 4) (hb : port.toNat = 2 ∨ port.toNat = 3 ∨ bit.toNat ≤ 7) :
    ∃ i, decodeClrb port bit addr 0 = .ok i := by
  rcases port_cases hp with rfl | rfl | rfl | rfl | rfl
  case inr.inr.inl | inr.inr.inr.inl => exact ⟨_, rfl⟩
  all_goals simp [decodeClrb, show bit.toNat ≤ 7 by simpa using hb]

theorem decodeGetb_ok (hp : port.toNat ≤ 4) (hb : port.toNat = 2 ∨ port.toNat = 3 ∨ bit.toNat ≤ 7) :
    ∃ i, decodeGetb port bit addr 0 = .ok i := by
  rcases port_cases hp with rfl | rfl | rfl | rfl | rfl
  case inr.inr.inl | inr.inr.inr.inl => exact ⟨_, rfl⟩
  all_goals simp [decodeGetb, show bit.toNat ≤ 7 by simpa using hb]

end

/-- The operation codes of R113. -/
theorem knownOpcode_cases {opc : Byte} (h : knownOpcode opc = true) :
    opc = 0x00 ∨ opc = 0x01 ∨ opc = 0x02 ∨ opc = 0x03 ∨ opc = 0x04 ∨ opc = 0x05 ∨ opc = 0x06 ∨ opc = 0x10 ∨
      opc = 0x11 ∨ opc = 0x20 ∨ opc = 0x21 := by
  revert opc
  decide

/-- Fields that pass the tests of R117 decode, operation by operation. -/
theorem decodeFields_ok {opc : Byte} {port : BitVec 3} {bit : BitVec 4} {addr val : Half} (hk : knownOpcode opc = true)
    (hp : legalPort opc port = true) (hb : legalBit opc port bit = true) (ho : legalOperands opc addr val = true) :
    ∃ i, decodeFields opc port bit addr val = .ok i := by
  rcases knownOpcode_cases hk with rfl | rfl | rfl | rfl | rfl | rfl | rfl | rfl | rfl | rfl | rfl <;>
    simp [legalPort, legalBit, legalOperands, isBitOpcode] at hp hb ho
  · exact ⟨.nop, by simp [decodeFields, decodePlain, hp, hb, ho]⟩
  · exact decodeWr_ok addr val hp hb
  · subst ho; exact decodeRd_ok addr hp hb
  · exact decodeTbl_ok addr val hp hb
  · subst ho; exact decodeSetb_ok addr hp (or_assoc.1 hb)
  · subst ho; exact decodeClrb_ok addr hp (or_assoc.1 hb)
  · subst ho; exact decodeGetb_ok addr hp (or_assoc.1 hb)
  · exact ⟨.capture, by simp [decodeFields, decodePlain, hp, hb, ho]⟩
  · exact ⟨.deselect, by simp [decodeFields, decodePlain, hp, hb, ho]⟩
  · exact ⟨.nmeaLine addr val, by simp [decodeFields, decodeRange, hp, hb]⟩
  · exact ⟨.nmeaBuf addr val, by simp [decodeFields, decodeRange, hp, hb]⟩

/-- A legal descriptor stands for a command (R117). -/
theorem decode_of_legal {c : Desc} (h : legal c = true) : ∃ i, decode c = .ok i := by
  simp only [legal, Bool.and_eq_true, beq_iff_eq] at h
  obtain ⟨⟨⟨⟨hk, h0, h1⟩, hp⟩, hb⟩, ho⟩ := h
  rw [decode, if_neg (by simp [h0, h1])]
  exact decodeFields_ok hk hp hb ho

/-! ### What a step may answer -/

/-- What a step answers: a next state with `P`, or a fault, but no refusal. -/
def Allows (P : State → Prop) : StepResult → Prop
  | .next t => P t
  | .fault _ => True
  | .refused _ => False

theorem Allows.of_next {P : State → Prop} {o : StepResult} {t : State} (h : Allows P o) (ho : o = .next t) : P t := by
  rw [ho] at h
  exact h

theorem Allows.mono {P Q : State → Prop} {o : StepResult} (h : Allows P o) (hPQ : ∀ t, P t → Q t) : Allows Q o := by
  cases o with
  | next t => exact hPQ t h
  | fault r => trivial
  | refused r => exact h

theorem Allows.ne_refused {P : State → Prop} {o : StepResult} (h : Allows P o) (r : Refusal) : o ≠ .refused r := by
  rintro rfl
  exact h

section
variable {P : State → Prop} {s : State}

theorem flush_allows {n : Nat} {k : Point} (h : ∀ bytes, P (askSink bytes k s)) : Allows P (flush n k s) := by
  rcases flush_cases n k s with ⟨bytes, -, h'⟩ | ⟨i, -, h'⟩ <;> rw [h']
  exacts [h bytes, trivial]

/-- A store begins a rotation, faults, or goes on with a state that has the same history. -/
theorem store_allows {site : StoreSite} {next : State → StepResult}
    (hrot : P (signal .csDeassert (.rotDeasserted site) s)) (hnext : ∀ u : State, u.hist = s.hist → Allows P (next u)) :
    Allows P (store site next s) := by
  rcases store_cases site next s with ⟨-, h⟩ | ⟨-, h⟩ | ⟨-, h⟩ <;> rw [h]
  exacts [hrot, trivial, hnext _ rfl]

end

/-! ### The moves of a capture -/

/-- The program points after a `CS_ASSERT` (R198, R203). -/
def selectedPoint : Point → Bool
  | .csAsserted | .rotAsserted _ => true
  | _ => false

/-- The program points after a `BURST_BEGIN` (R198, R203). -/
def openingPoint : Point → Bool
  | .burstOpen | .rotBurst _ => true
  | _ => false

/-- The program points of a command under way that need neither chip-select nor a burst to be open. -/
def freePoint (k : Point) : Bool := k != .idle && !selectedPoint k && !openingPoint k && k != .pulled

def isXfer : Prim → Bool
  | .xfer _ => true
  | _ => false

/-- A step of the stream from the history `h`: one `XFER`, or another primitive and a program point that needs no open
burst (R199 to R204). -/
def StreamMove (h : List Event) (t : State) : Prop :=
  (∃ o a, t.hist = h ++ [⟨.xfer o, a⟩] ∧ t.pcSeq = .pulled) ∨
  (∃ e, t.hist = h ++ [e] ∧ isXfer e.prim = false ∧ freePoint t.pcSeq = true)

/-- The stream goes on: the last `BURST_BEGIN` was answered `Ok`, or a byte was pulled since (R199, R203). -/
def streaming (s : State) : Prop := openingPoint s.pcSeq = true ∧ s.ans ≠ .err ∨ s.pcSeq = .pulled

/-- What a step of CAPTURE can do, as its CAP_STATE and the burst discipline see it. -/
inductive CaptureMove (s t : State) : Prop
  /-- The capture ends, and no longer is ARMED or STREAMING unless it never began (R190, R205, R294). -/
  | ends (hist : t.hist = s.hist) (point : t.pcSeq = .idle)
      (released : capturing t = true → capturing s = true ∧ capturePoint s.pcSeq = false)
  /-- `CS_ASSERT` (R198, R203). -/
  | select (a : Answer) (hist : t.hist = s.hist ++ [⟨.csAssert, a⟩]) (point : selectedPoint t.pcSeq = true)
  /-- `BURST_BEGIN` right after `CS_ASSERT` (R198, R203). -/
  | openBurst (since : selectedPoint s.pcSeq = true) (hist : t.hist = s.hist ++ [⟨.burstBegin, t.ans⟩])
      (point : openingPoint t.pcSeq = true)
  /-- A step of the stream (R199 to R204). -/
  | stream (since : streaming s) (move : StreamMove s.hist t)
  /-- Another primitive. -/
  | other (e : Event) (hist : t.hist = s.hist ++ [e]) (prim : isXfer e.prim = false) (point : freePoint t.pcSeq = true)

theorem streamNext_move (s : State) : StreamMove s.hist (streamNext s) := by
  rcases streamNext_cases s with ⟨-, h⟩ | ⟨-, h⟩ <;> rw [h]
  · exact .inr ⟨⟨.csDeassert, .ok 0⟩, rfl, rfl, rfl⟩
  · exact .inl ⟨_, _, rfl, rfl⟩

theorem store_move {h : List Event} {site : StoreSite} {next : State → StepResult} {s : State} (hs : s.hist = h)
    (hnext : ∀ u : State, u.hist = h → Allows (StreamMove h) (next u)) : Allows (StreamMove h) (store site next s) := by
  subst hs
  exact store_allows (.inr ⟨⟨.csDeassert, .ok 0⟩, rfl, rfl, rfl⟩) hnext

section
variable {h : List Event} {s : State} (hs : s.hist = h)
include hs

theorem streamNext_allows : Allows (StreamMove h) (.next (streamNext s)) := hs ▸ streamNext_move s

theorem afterData_move : Allows (StreamMove h) (afterData s) := by
  rcases afterData_cases s with ⟨-, -, h'⟩ | ⟨-, h'⟩ <;> rw [h']
  · refine flush_allows fun bytes => .inr ⟨⟨.sinkWrite bytes, answerTo (.sinkWrite bytes) s⟩, ?_, rfl, rfl⟩
    rw [← hs]
    rfl
  · exact streamNext_allows hs

theorem afterStore_move (site : StoreSite) : Allows (StreamMove h) (afterStore site s) := by
  cases site with
  | startFF => exact store_move hs fun u hu => streamNext_allows hu
  | startD8 => exact streamNext_allows hs
  | data => exact afterData_move hs

theorem examineWindow_move : Allows (StreamMove h) (examineWindow s) := by
  rcases examineWindow_cases s with ⟨-, h'⟩ | ⟨-, -, -, h'⟩ | ⟨-, -, h'⟩ <;> rw [h']
  · exact store_move hs fun u hu => afterData_move hu
  · exact store_move (s := { s with inFrame := true }) hs fun u hu => store_move hu fun v hv => streamNext_allows hv
  · exact streamNext_allows hs

end

section
variable {s : State}

/-- `fail E` ends the capture with CAP_STATE IDLE (R191, R205). -/
theorem captureMove_fail {u : State} (hu : u.hist = s.hist) (e : ErrCode) (prim : PrimCode) :
    CaptureMove s (captureFail e prim u) :=
  .ends hu rfl fun hc => by cases hc

theorem pollAgain_move {u : State} (hu : u.hist = s.hist) : CaptureMove s (pollAgain u) := by
  rcases pollAgain_cases u with ⟨-, h⟩ | ⟨-, -, h⟩ | ⟨-, -, h⟩ <;> rw [h]
  · exact captureMove_fail hu _ _
  · exact captureMove_fail hu _ _
  · exact .other ⟨.tbRead u.cfg.regTrig, _⟩ (congrArg (· ++ _) hu) rfl rfl

theorem openBurst_move {u : State} (hu : u.hist = s.hist) : CaptureMove s (openBurst u) := by
  rcases openBurst_cases u with ⟨-, h⟩ | ⟨-, -, h⟩ | ⟨-, -, h⟩ <;> rw [h]
  · exact captureMove_fail hu _ _
  · exact captureMove_fail hu _ _
  · exact .select _ (congrArg (· ++ _) hu) rfl

/-- A rotation's burst re-issued: the interrupted store is completed and the stream goes on (R203). -/
theorem afterRotBurst_move {site : StoreSite} (hk : s.pcSeq = .rotBurst site) :
    Allows (CaptureMove s) (afterRotBurst site s) := by
  unfold afterRotBurst
  split
  · exact captureMove_fail rfl _ _
  · next v ha =>
    have since : streaming s := .inl ⟨by rw [hk]; rfl, by rw [ha]; nofun⟩
    rcases putByte_cases (storeByte site s) s with ⟨-, h⟩ | ⟨-, h⟩ <;> rw [h]
    · trivial
    · exact (afterStore_move rfl site).mono fun t ht => .stream since ht

theorem afterPull_move (hk : s.pcSeq = .pulled) : Allows (CaptureMove s) (afterPull s) := by
  unfold afterPull
  split
  · exact captureMove_fail rfl _ _
  · next v ha =>
    have window := examineWindow_move (h := s.hist) (s := slideWindow (v.setWidth 8) s) rfl
    exact window.mono fun t ht => .stream (.inr hk) ht

/-- Every step of CAPTURE is one of its moves, or a fault. -/
theorem execCapture_move (s : State) : Allows (CaptureMove s) (execCapture s) := by
  unfold execCapture
  split
  case h_1 =>
    show CaptureMove s (afterArmClear s)
    unfold afterArmClear; split
    exacts [captureMove_fail rfl _ _, .other _ rfl rfl rfl]
  case h_2 =>
    show CaptureMove s (afterArmStart s)
    unfold afterArmStart; split
    exacts [captureMove_fail rfl _ _, pollAgain_move rfl]
  case h_3 =>
    show CaptureMove s (afterPoll s)
    unfold afterPoll; split
    · exact captureMove_fail rfl _ _
    · split
      exacts [.other _ rfl rfl rfl, pollAgain_move rfl]
  case h_4 =>
    show CaptureMove s (afterSize1 s)
    unfold afterSize1; split
    exacts [captureMove_fail rfl _ _, .other _ rfl rfl rfl]
  case h_5 =>
    show CaptureMove s (afterSize2 s)
    unfold afterSize2; split
    exacts [captureMove_fail rfl _ _, .other _ rfl rfl rfl]
  case h_6 =>
    show CaptureMove s (afterSize3 s)
    unfold afterSize3; split
    exacts [captureMove_fail rfl _ _, openBurst_move rfl]
  case h_7 hk => exact .openBurst (by rw [hk]; rfl) rfl rfl
  case h_8 hk =>
    show CaptureMove s (afterBurstOpen s)
    unfold afterBurstOpen; split
    · exact captureMove_fail rfl _ _
    · next v ha => exact .stream (.inl ⟨by rw [hk]; rfl, by rw [ha]; nofun⟩) (streamNext_move s)
  case h_9 hk => exact afterPull_move hk
  case h_10 => exact flush_allows fun bytes => .other ⟨.sinkWrite bytes, _⟩ rfl rfl rfl
  case h_11 =>
    show CaptureMove s (afterRotFlush _ s)
    unfold afterRotFlush; split
    exacts [captureMove_fail (s := s) (u := { s with csState := .unknown }) rfl _ _, .select _ rfl rfl]
  case h_12 hk => exact .openBurst (by rw [hk]; rfl) rfl rfl
  case h_13 hk => exact afterRotBurst_move hk
  case h_14 =>
    show CaptureMove s (afterEofFlush s)
    unfold afterEofFlush; split
    exacts [captureMove_fail (s := s) (u := { s with csState := .unknown }) rfl _ _,
      .other ⟨.csDeassert, .ok 0⟩ rfl rfl rfl]
  case h_15 => exact .ends rfl rfl fun hc => by cases hc
  case h_16 => exact captureMove_fail (s := s) (u := { s with csState := .deselected }) rfl _ _
  case h_17 =>
    show CaptureMove s (captureFirst s)
    unfold captureFirst; split
    · refine .ends rfl rfl fun hc => ⟨hc, ?_⟩
      cases hk : s.pcSeq with
      | idle | start | delay | written | read | deselected => rfl
      | _ => simp_all
    · exact .other _ rfl rfl rfl

end

/-! ### The moves of the other commands -/

/-- What a step of a command other than CAPTURE can do, as CAP_STATE and the burst discipline see it. -/
inductive OtherMove (s t : State) : Prop
  | ends (hist : t.hist = s.hist) (point : t.pcSeq = .idle) (cap : t.capState = s.capState)
  | issues (e : Event) (hist : t.hist = s.hist ++ [e]) (prim : isXfer e.prim = false) (point : freePoint t.pcSeq = true)
      (cap : t.capState = s.capState)

theorem isXfer_of_registerAccess {p : Prim} (h : registerAccess p = true) : isXfer p = false := by
  cases p with
  | xfer => cases h
  | _ => rfl

theorem freePoint_of_registerPoint {k : Point} (h : registerPoint k = true) : freePoint k = true := by
  cases k with
  | delay | written | read => rfl
  | _ => cases h

theorem otherMove_of_registerShape {s t : State} (h : RegisterShape s t) : OtherMove s t := by
  obtain ⟨u, hu, ht⟩ := h
  unfold RegisterOnly at hu
  rw [hu] at ht
  rcases ht with ⟨e, prim, idx, rfl⟩ | rfl | ⟨p, k, hp, hk, rfl⟩ | rfl
  · exact .ends rfl rfl rfl
  · exact .ends rfl rfl rfl
  · exact .issues ⟨p, _⟩ rfl (isXfer_of_registerAccess hp) (freePoint_of_registerPoint hk) rfl
  · exact .issues ⟨.delayMs 1, .ok 0⟩ rfl rfl rfl rfl

theorem otherMove_finish_of_decoderOnly {s u : State} (h : DecoderOnly s u) (e : ErrCode) : OtherMove s (finish e u) := by
  unfold DecoderOnly at h
  rw [h]
  exact .ends rfl rfl rfl

theorem exec_otherMove {i : Instr} {s t : State} (hi : i ≠ .capture) (h : exec i s = .next t) : OtherMove s t := by
  rcases exec_family i with rfl | ⟨p, a, v, hf⟩ | ⟨p, a, hf⟩ | ⟨p, a, n, -, hf⟩ | ⟨p, a, m, hf⟩ | ⟨p, a, k, hf⟩ | rfl |
    rfl | ⟨l, n, rfl⟩ | ⟨l, n, rfl⟩
  · cases h
    exact .ends rfl rfl rfl
  · exact otherMove_of_registerShape (wrCmd_shape ((hf s).symm.trans h))
  · exact otherMove_of_registerShape (rdCmd_shape ((hf s).symm.trans h))
  · exact otherMove_of_registerShape (tblCmd_shape ((hf s).symm.trans h))
  · exact otherMove_of_registerShape (modifyCmd_shape ((hf s).symm.trans h))
  · exact otherMove_of_registerShape (getBitCmd_shape ((hf s).symm.trans h))
  · exact absurd rfl hi
  · simp only [exec] at h
    rcases execDeselect_cases s with ⟨-, h'⟩ | ⟨-, h'⟩ <;> rw [h'] at h <;> cases h
    · exact .ends rfl rfl rfl
    · exact .issues ⟨.csDeassert, .ok 0⟩ rfl rfl rfl rfl
  · rcases nmeaLine_shape h with rfl | ⟨u, e, hu, rfl⟩
    · exact .ends rfl rfl rfl
    · exact otherMove_finish_of_decoderOnly hu e
  · rcases nmeaBuf_shape h with rfl | ⟨u, hu, rfl⟩
    · exact .ends rfl rfl rfl
    · exact otherMove_finish_of_decoderOnly hu .ok

/-! ### The program points of a command -/

theorem hasDelay_not_inert {p : Port} (h : hasDelay p = true) : isInert p = false := by
  cases p with
  | a16d8 => rfl
  | _ => cases h

theorem portWrite_writePoint (p : Port) (addr val : Half) (s : State) :
    writePoint p (portWrite p addr val s).pcSeq = true := by
  cases p <;> rfl

/-- The program points that a command which writes through a port can leave. -/
def OwnWritePoint (p : Port) (k : Point) : Prop := k = .idle ∨ (!isInert p && writePoint p k) = true

/-- The program points that a command which only reads through a port can leave. -/
def OwnReadPoint (p : Port) (k : Point) : Prop := k = .idle ∨ (!isInert p && k == .read) = true

section
variable {p : Port} {s t : State}

theorem OwnWritePoint.delay (h : hasDelay p = true) : OwnWritePoint p .written := by
  refine .inr ?_
  rw [hasDelay_not_inert h]
  rfl

theorem OwnWritePoint.portWrite (h : isInert p = false) (addr val : Half) (s : State) :
    OwnWritePoint p (portWrite p addr val s).pcSeq := by
  refine .inr ?_
  rw [h, portWrite_writePoint]
  rfl

theorem OwnReadPoint.read (h : isInert p = false) : OwnReadPoint p .read := by
  refine .inr ?_
  rw [h]
  rfl

theorem wrCmd_point {addr val : Half} (h : wrCmd p addr val s = .next t) : OwnWritePoint p t.pcSeq := by
  rcases wrCmd_cases p addr val s with ⟨_, h'⟩ | ⟨_, _, _, _, h'⟩ | ⟨hp, _, _, _, h'⟩ | ⟨hd, _, h'⟩ | ⟨_, _, _, h'⟩ |
    ⟨_, _, _, h'⟩ <;> rw [h'] at h <;> cases h
  exacts [.inl rfl, .inl rfl, .portWrite hp _ _ _, .delay hd, .inl rfl, .inl rfl]

theorem tableEntry_point {tbase tlen : Half} (hp : isInert p = false) (h : tableEntry p tbase tlen s = .next t) :
    OwnWritePoint p t.pcSeq := by
  rcases tableEntry_cases p tbase tlen s with ⟨_, h'⟩ | ⟨_, _, _, h'⟩ | ⟨e, _, _, _, _, h'⟩ | ⟨e, _, _, _, _, h'⟩
    <;> rw [h'] at h <;> cases h
  exacts [.inl rfl, .inl rfl, .portWrite hp _ _ _]

theorem tblCmd_point {tbase tlen : Half} (h : tblCmd p tbase tlen s = .next t) : OwnWritePoint p t.pcSeq := by
  rcases tblCmd_cases p tbase tlen s with ⟨_, h'⟩ | ⟨hd, _, h'⟩ | ⟨_, _, _, h'⟩ | ⟨hp, _, _, h'⟩ | ⟨hp, _, _, h'⟩
    <;> rw [h'] at h
  · cases h; exact .inl rfl
  · cases h; exact .delay hd
  · cases h; exact .inl rfl
  · exact tableEntry_point hp h
  · exact tableEntry_point hp h

theorem rdCmd_point {addr : Half} (h : rdCmd p addr s = .next t) : OwnReadPoint p t.pcSeq := by
  rcases rdCmd_cases p addr s with ⟨_, h'⟩ | ⟨_, _, _, h'⟩ | ⟨hp, _, _, h'⟩ | ⟨_, _, _, h'⟩ | ⟨v, _, _, _, h'⟩
    <;> rw [h'] at h <;> cases h
  exacts [.inl rfl, .inl rfl, .read hp, .inl rfl, .inl rfl]

theorem getBitCmd_point {addr : Half} {bit : BitVec 4} (h : getBitCmd p addr bit s = .next t) :
    OwnReadPoint p t.pcSeq := by
  rcases getBitCmd_cases p addr bit s with ⟨_, h'⟩ | ⟨_, _, _, h'⟩ | ⟨hp, _, _, h'⟩ | ⟨_, _, _, h'⟩ | ⟨v, _, _, _, h'⟩
    <;> rw [h'] at h <;> cases h
  exacts [.inl rfl, .inl rfl, .read hp, .inl rfl, .inl rfl]

theorem modifyCmd_point {addr : Half} {modify : Half → Half} (h : modifyCmd p addr modify s = .next t) :
    t.pcSeq = .idle ∨ (!isInert p && (t.pcSeq == .read || writePoint p t.pcSeq)) = true := by
  have own {k : Point} (hk : OwnReadPoint p k ∨ OwnWritePoint p k) :
      k = .idle ∨ (!isInert p && (k == .read || writePoint p k)) = true := by
    unfold OwnReadPoint OwnWritePoint at hk
    rcases hk with (hk | hk) | (hk | hk) <;> simp_all
  rcases modifyCmd_cases p addr modify s with ⟨_, h'⟩ | ⟨_, _, _, _, _, h'⟩ | ⟨hp, _, _, _, _, h'⟩ | ⟨_, _, _, h'⟩ |
    ⟨v, hp, _, _, h'⟩ | ⟨hd, _, h'⟩ | ⟨_, _, _, h'⟩ | ⟨_, _, _, h'⟩ <;> rw [h'] at h <;> cases h
  exacts [.inl rfl, .inl rfl, own (.inl (.read hp)), .inl rfl, own (.inr (.portWrite hp _ _ _)), own (.inr (.delay hd)),
    .inl rfl, .inl rfl]

end

theorem capture_point {s t : State} (h : exec .capture s = .next t) : t.pcSeq = .idle ∨ capturePoint t.pcSeq = true := by
  obtain ⟨u, -, ⟨e, prim, rfl⟩ | rfl | ⟨p, k, hk, rfl⟩ | ⟨p, k, hk, rfl⟩ | ⟨bytes, k, hk, rfl⟩⟩ := capture_shape h
  exacts [.inl rfl, .inl rfl, .inr hk, .inr hk, .inr hk]

/-- A step of a command ends it or leaves it at one of its own later program points (R50). -/
theorem exec_laterPoint {i : Instr} {s t : State} (h : exec i s = .next t) :
    t.pcSeq = .idle ∨ laterPoint i t.pcSeq = true := by
  cases i with
  | nop => cases h; exact .inl rfl
  | wrA8D8 | wrA16D8 | wrA8D16 | wrA16D16 | wrTB =>
    simp only [exec] at h
    exact wrCmd_point h
  | rdA8D8 | rdA16D8 | rdA8D16 | rdA16D16 | rdTB =>
    simp only [exec] at h
    exact rdCmd_point h
  | tblA8D8 | tblA16D8 | tblA8D16 | tblA16D16 =>
    simp only [exec] at h
    exact tblCmd_point h
  | setbA8D8 | setbA16D8 | setbA8D16 | setbA16D16 | setbTB
  | clrbA8D8 | clrbA16D8 | clrbA8D16 | clrbA16D16 | clrbTB =>
    simp only [exec] at h
    exact modifyCmd_point h
  | getbA8D8 | getbA16D8 | getbA8D16 | getbA16D16 | getbTB =>
    simp only [exec] at h
    exact getBitCmd_point h
  | capture => exact capture_point h
  | deselect =>
    simp only [exec] at h
    rcases execDeselect_cases s with ⟨-, h'⟩ | ⟨-, h'⟩ <;> rw [h'] at h <;> cases h
    exacts [.inl rfl, .inr rfl]
  | nmeaLine =>
    rcases nmeaLine_shape h with rfl | ⟨u, e, -, rfl⟩
    exacts [.inl rfl, .inl rfl]
  | nmeaBuf =>
    rcases nmeaBuf_shape h with rfl | ⟨u, -, rfl⟩
    exacts [.inl rfl, .inl rfl]

/-- No other command has a program point of a capture (R50, R190). -/
theorem capturePoint_of_ownsPoint {i : Instr} {k : Point} (hi : i ≠ .capture) (h : ownsPoint i k = true) :
    capturePoint k = false := by
  cases hk : capturePoint k with
  | false => rfl
  | true =>
    have hstart : k ≠ .start := by rintro rfl; cases hk
    have hdelay : k ≠ .delay := by rintro rfl; cases hk
    have hwritten : k ≠ .written := by rintro rfl; cases hk
    have hread : k ≠ .read := by rintro rfl; cases hk
    have hdeselected : k ≠ .deselected := by rintro rfl; cases hk
    cases i with
    | capture => exact absurd rfl hi
    | _ => simp [ownsPoint, laterPoint, writePoint, hstart, hdelay, hwritten, hread, hdeselected] at h

/-! ### No command is refused -/

theorem wrCmd_ne_refused (p : Port) (addr val : Half) (s : State) (r : Refusal) : wrCmd p addr val s ≠ .refused r := by
  rcases wrCmd_cases p addr val s with ⟨_, h⟩ | ⟨_, _, _, _, h⟩ | ⟨_, _, _, _, h⟩ | ⟨_, _, h⟩ | ⟨_, _, _, h⟩ |
    ⟨_, _, _, h⟩ <;> rw [h] <;> exact nofun

theorem rdCmd_ne_refused (p : Port) (addr : Half) (s : State) (r : Refusal) : rdCmd p addr s ≠ .refused r := by
  rcases rdCmd_cases p addr s with ⟨_, h⟩ | ⟨_, _, _, h⟩ | ⟨_, _, _, h⟩ | ⟨_, _, _, h⟩ | ⟨v, _, _, _, h⟩
    <;> rw [h] <;> exact nofun

theorem getBitCmd_ne_refused (p : Port) (addr : Half) (bit : BitVec 4) (s : State) (r : Refusal) :
    getBitCmd p addr bit s ≠ .refused r := by
  rcases getBitCmd_cases p addr bit s with ⟨_, h⟩ | ⟨_, _, _, h⟩ | ⟨_, _, _, h⟩ | ⟨_, _, _, h⟩ | ⟨v, _, _, _, h⟩
    <;> rw [h] <;> exact nofun

theorem modifyCmd_ne_refused (p : Port) (addr : Half) (modify : Half → Half) (s : State) (r : Refusal) :
    modifyCmd p addr modify s ≠ .refused r := by
  rcases modifyCmd_cases p addr modify s with ⟨_, h⟩ | ⟨_, _, _, _, _, h⟩ | ⟨_, _, _, _, _, h⟩ | ⟨_, _, _, h⟩ |
    ⟨v, _, _, _, h⟩ | ⟨_, _, h⟩ | ⟨_, _, _, h⟩ | ⟨_, _, _, h⟩ <;> rw [h] <;> exact nofun

theorem tableEntry_ne_refused (p : Port) (tbase tlen : Half) (s : State) (r : Refusal) :
    tableEntry p tbase tlen s ≠ .refused r := by
  rcases tableEntry_cases p tbase tlen s with ⟨_, h⟩ | ⟨_, _, _, h⟩ | ⟨e, _, _, _, _, h⟩ | ⟨e, _, _, _, _, h⟩
    <;> rw [h] <;> exact nofun

theorem tblCmd_ne_refused (p : Port) (tbase tlen : Half) (s : State) (r : Refusal) :
    tblCmd p tbase tlen s ≠ .refused r := by
  rcases tblCmd_cases p tbase tlen s with ⟨_, h⟩ | ⟨_, _, h⟩ | ⟨_, _, _, h⟩ | ⟨_, _, _, h⟩ | ⟨_, _, _, h⟩ <;> rw [h]
  exacts [nofun, nofun, nofun, tableEntry_ne_refused _ _ _ _ _, tableEntry_ne_refused _ _ _ _ _]

theorem withBuffer_ne_refused (lbase llen : Half) (s : State) (f : List Byte → State) (r : Refusal) :
    withBuffer lbase llen s (fun buffer => .next (f buffer)) ≠ .refused r := by
  rcases withBuffer_cases lbase llen s (fun buffer => .next (f buffer)) with ⟨_, h⟩ | ⟨i, _, _, h⟩ | ⟨b, _, _, h⟩
    <;> rw [h] <;> exact nofun

theorem exec_ne_refused (i : Instr) (s : State) (r : Refusal) : exec i s ≠ .refused r := by
  rcases exec_family i with rfl | ⟨p, a, v, hf⟩ | ⟨p, a, hf⟩ | ⟨p, a, n, -, hf⟩ | ⟨p, a, m, hf⟩ | ⟨p, a, k, hf⟩ | rfl |
    rfl | ⟨l, n, rfl⟩ | ⟨l, n, rfl⟩
  · exact nofun
  · rw [hf]
    exact wrCmd_ne_refused p a v s r
  · rw [hf]
    exact rdCmd_ne_refused p a s r
  · rw [hf]
    exact tblCmd_ne_refused p a n s r
  · rw [hf]
    exact modifyCmd_ne_refused p a m s r
  · rw [hf]
    exact getBitCmd_ne_refused p a k s r
  · exact (execCapture_move s).ne_refused r
  · simp only [exec]
    rcases execDeselect_cases s with ⟨-, h⟩ | ⟨-, h⟩ <;> rw [h] <;> exact nofun
  · exact withBuffer_ne_refused l n s _ r
  · exact withBuffer_ne_refused l n s _ r

/-! ### The sequencer's invariant -/

theorem sequencerInv_iff_of_idle {s : State} (hb : s.busy = false) :
    SequencerInv s ↔ s.pcSeq = .idle ∧ s.cancelPending = false ∧ capturing s = false := by
  unfold SequencerInv
  rw [hb]
  exact Iff.rfl

theorem sequencerInv_iff_of_busy {s : State} (hb : s.busy = true) :
    SequencerInv s ↔ ∃ i, decode s.curCmd = .ok i ∧ ownsPoint i s.pcSeq = true ∧
      (capturing s = true → capturePoint s.pcSeq = true) := by
  unfold SequencerInv currentCommand
  rw [hb, if_pos rfl]
  cases decode s.curCmd with
  | ok i => simp
  | error e => simp

/-- A command that starts outside a capture or inside its own leaves ARMED or STREAMING only inside its own (R190). -/
theorem exec_capturing {i : Instr} {s t : State} (h : exec i s = .next t) (hown : ownsPoint i s.pcSeq = true)
    (hs : capturing s = true → capturePoint s.pcSeq = true) (ht : capturing t = true) : capturePoint t.pcSeq = true := by
  by_cases hi : i = .capture
  · subst hi
    have later (hk : t.pcSeq ≠ .idle) : capturePoint t.pcSeq = true := (exec_laterPoint h).resolve_left hk
    cases (execCapture_move s).of_next h with
    | ends _ _ released =>
      obtain ⟨hc, hk⟩ := released ht
      rw [hs hc] at hk
      cases hk
    | select _ _ point | openBurst _ _ point | other _ _ _ point =>
      exact later fun hk => by rw [hk] at point; cases point
    | stream _ move =>
      rcases move with ⟨-, -, -, point⟩ | ⟨-, -, -, point⟩ <;> exact later fun hk => by rw [hk] at point; cases point
  · have hcap : t.capState = s.capState := by cases exec_otherMove hi h <;> assumption
    have hc : capturing s = true := by rwa [capturing, ← hcap]
    have hk := capturePoint_of_ownsPoint hi hown
    rw [hs hc] at hk
    cases hk

/-- A step of a command keeps the sequencer's invariant. -/
theorem exec_sequencerInv {i : Instr} {s t : State} (hs : SequencerInv s) (hb : s.busy = true)
    (hd : decode s.curCmd = .ok i) (h : exec i s = .next t) : SequencerInv t := by
  obtain ⟨j, hj, hown, hcap⟩ := (sequencerInv_iff_of_busy hb).1 hs
  obtain rfl : i = j := Except.ok.inj (hd.symm.trans hj)
  have hcapt := exec_capturing h hown hcap
  rcases onePrimitivePerStep i s t h with ⟨-, hbt, hkt⟩ | ⟨e, -, hbt, hkt, -⟩
  · refine (sequencerInv_iff_of_idle hbt).2 ⟨hkt, (commandEndClearsCancel i s t h).1 hkt, Bool.eq_false_of_not_eq_true ?_⟩
    rw [hkt] at hcapt
    exact fun hc => nomatch hcapt hc
  · have hlater := (exec_laterPoint h).resolve_left hkt
    refine (sequencerInv_iff_of_busy (hbt.trans hb)).2 ⟨i, ?_, ?_, hcapt⟩
    · rw [(exec_hostSideKept h).curCmd, hd]
    · rw [ownsPoint, hlater, Bool.or_true]

/-- Taking a command of an idle block keeps the sequencer's invariant: a legal one starts outside a capture (R118). -/
theorem takeCommand_sequencerInv {s : State} (hs : SequencerInv s) (hb : s.busy = false) (c : Desc) :
    SequencerInv (takeCommand c s) := by
  rcases takeCommand_cases c s with ⟨hl, h⟩ | ⟨-, h⟩ <;> rw [h]
  · obtain ⟨i, hi⟩ := decode_of_legal hl
    have hidle := (sequencerInv_iff_of_idle hb).1 hs
    refine (sequencerInv_iff_of_busy rfl).2 ⟨i, hi, rfl, fun hc => ?_⟩
    have hc' : capturing s = true := hc
    rw [hidle.2.2] at hc'
    cases hc'
  · exact hs

theorem hostWriteCtrl_sequencerInv {s : State} (hs : SequencerInv s) (v : Byte) : SequencerInv (hostWriteCtrl v s) := by
  cases hb : s.busy with
  | true =>
    have hinv := (sequencerInv_iff_of_busy hb).1 hs
    exact (sequencerInv_iff_of_busy (s := hostWriteCtrl v s) hb).2 hinv
  | false =>
    obtain ⟨hk, hc, hcap⟩ := (sequencerInv_iff_of_idle hb).1 hs
    refine (sequencerInv_iff_of_idle (s := hostWriteCtrl v s) hb).2 ⟨hk, ?_, hcap⟩
    rw [hostWriteCtrl, hc, hb]
    rfl

theorem HostEffect.sequencerInv {a : HostAction} {s t : State} (h : HostEffect a s t) (hs : SequencerInv s) :
    SequencerInv t := by
  cases h with
  | discarded | memory | ignored | read => exact hs
  | command idle c => exact takeCommand_sequencerInv hs idle c
  | control v => exact hostWriteCtrl_sequencerInv hs _
  | reset => exact (sequencerInv_iff_of_idle rfl).2 ⟨rfl, rfl, rfl⟩

/-- Under the sequencer's invariant no step is refused: a busy block holds a legal command, and no command is refused. -/
theorem step_ne_refused {s : State} (hs : SequencerInv s) (r : Refusal) : step s ≠ .refused r := by
  rcases step_host_or_sequencer s with ⟨a, -, h⟩ | h <;> rw [h]
  · exact nofun
  · cases hb : s.busy with
    | false =>
      rw [seqStep_of_idle (s := turnTaken s) hb]
      exact nofun
    | true =>
      obtain ⟨i, hi, -⟩ := (sequencerInv_iff_of_busy hb).1 hs
      rw [seqStep_of_busy (s := turnTaken s) hb hi]
      exact exec_ne_refused i _ r

/-- Settles O55, by what a step can do. The turn taken off the schedule is no part of the invariant. -/
theorem sequencerInvariantKept : Obligations.SequencerInvariantKept := by
  intro s hs
  have hs' : SequencerInv (turnTaken s) := hs
  refine ⟨fun t h => ?_, step_ne_refused hs⟩
  cases step_effect h with
  | host a _ effect => exact effect.sequencerInv hs'
  | idle _ next => exact next ▸ hs'
  | command busy i dec run => exact exec_sequencerInv hs' busy dec run


end Sys2Proof.Proofs
end

section
/-! PROOFS. The burst discipline (R54, R198, R203, R325): every step keeps it, by the moves of the commands. -/

namespace Sys2Proof.Proofs

open Sys2Proof Sys2Proof.Machine Sys2Proof.Safety Sys2Proof.Laws

/-! ### The view of a history, one event further -/

theorem burstView_append (h : List Event) (e : Event) : burstView (h ++ [e]) = (burstView h).next e := by
  simp [burstView]

theorem next_lawful_of_not_xfer (v : BurstView) {e : Event} (h : isXfer e.prim = false) :
    (v.next e).lawful = v.lawful := by
  obtain ⟨p, a⟩ := e
  cases p with
  | xfer => cases h
  | _ => rfl

/-- The burst discipline by the kind of the program point. -/
theorem burstInv_iff (s : State) : BurstInv s ↔ (burstView s.hist).lawful = true ∧
    (selectedPoint s.pcSeq = true → (burstView s.hist).selected = true) ∧
    (openingPoint s.pcSeq = true → s.ans ≠ .err → (burstView s.hist).opened = true) ∧
    (s.pcSeq = .pulled → (burstView s.hist).opened = true) := by
  unfold BurstInv
  cases s.pcSeq <;> simp [selectedPoint, openingPoint]

/-- At a program point that needs nothing the history alone decides. -/
theorem burstInv_of_free {s : State} (hsel : selectedPoint s.pcSeq = false) (hopen : openingPoint s.pcSeq = false)
    (hpull : s.pcSeq ≠ .pulled) (h : (burstView s.hist).lawful = true) : BurstInv s :=
  (burstInv_iff s).2 ⟨h, by simp [hsel], by simp [hopen],
    fun h' => absurd h' hpull⟩

/-- The program points after a `CS_ASSERT` are no others. -/
theorem selectedPoint_only {k : Point} (h : selectedPoint k = true) : openingPoint k = false ∧ k ≠ .pulled := by
  cases k with
  | csAsserted | rotAsserted => exact ⟨rfl, nofun⟩
  | _ => cases h

/-- The program points after a `BURST_BEGIN` are no others. -/
theorem openingPoint_only {k : Point} (h : openingPoint k = true) : selectedPoint k = false ∧ k ≠ .pulled := by
  cases k with
  | burstOpen | rotBurst => exact ⟨rfl, nofun⟩
  | _ => cases h

/-! ### The moves keep the discipline -/

section
variable {s t : State} (hs : BurstInv s)
include hs

theorem burstInv_ends (hist : t.hist = s.hist) (point : t.pcSeq = .idle) : BurstInv t := by
  refine burstInv_of_free ?_ ?_ ?_ (hist ▸ hs.1) <;> rw [point]
  exacts [rfl, rfl, nofun]

/-- A primitive other than `XFER` keeps the discipline where no open burst is needed after it. -/
theorem burstInv_issues {e : Event} (hist : t.hist = s.hist ++ [e]) (prim : isXfer e.prim = false)
    (point : freePoint t.pcSeq = true) : BurstInv t := by
  simp only [freePoint, Bool.and_eq_true, Bool.not_eq_true', bne_iff_ne] at point
  obtain ⟨⟨⟨-, hsel⟩, hopen⟩, hpull⟩ := point
  refine burstInv_of_free hsel hopen hpull ?_
  rw [hist, burstView_append, next_lawful_of_not_xfer _ prim, hs.1]

/-- `CS_ASSERT` selects (R325). -/
theorem burstInv_select {a : Answer} (hist : t.hist = s.hist ++ [⟨.csAssert, a⟩]) (point : selectedPoint t.pcSeq = true) :
    BurstInv t := by
  obtain ⟨hopen, hpull⟩ := selectedPoint_only point
  rw [burstInv_iff, hist, burstView_append]
  exact ⟨hs.1, fun _ => rfl, by simp [hopen], fun h => absurd h hpull⟩

/-- `BURST_BEGIN` with chip-select asserted opens the burst unless it is answered `Err` (R325). -/
theorem burstInv_openBurst (since : selectedPoint s.pcSeq = true) (hist : t.hist = s.hist ++ [⟨.burstBegin, t.ans⟩])
    (point : openingPoint t.pcSeq = true) : BurstInv t := by
  obtain ⟨hlaw, hselected, -, -⟩ := (burstInv_iff s).1 hs
  obtain ⟨hsel, hpull⟩ := openingPoint_only point
  rw [burstInv_iff, hist, burstView_append]
  refine ⟨hlaw, by simp [hsel], fun _ ha => ?_, fun h => absurd h hpull⟩
  show ((burstView s.hist).selected && t.ans != .err) = true
  rw [hselected since, Bool.true_and, bne_iff_ne]
  exact ha

/-- A step of the stream from an open burst keeps the discipline: its `XFER` stands in that burst (R325). -/
theorem burstInv_stream (since : streaming s) (move : StreamMove s.hist t) : BurstInv t := by
  obtain ⟨hlaw, -, hopening, hpulled⟩ := (burstInv_iff s).1 hs
  have hopen : (burstView s.hist).opened = true := since.elim (fun h => hopening h.1 h.2) hpulled
  rcases move with ⟨o, a, hist, point⟩ | ⟨e, hist, prim, point⟩
  · unfold BurstInv
    rw [point, hist, burstView_append]
    refine ⟨?_, hopen⟩
    show ((burstView s.hist).lawful && (burstView s.hist).opened) = true
    rw [hlaw, hopen]
    rfl
  · exact burstInv_issues hs hist prim point

/-- A step of a command keeps the burst discipline, from any program point. -/
theorem exec_burstInv {i : Instr} (h : exec i s = .next t) : BurstInv t := by
  by_cases hi : i = .capture
  · subst hi
    cases (execCapture_move s).of_next h with
    | ends hist point => exact burstInv_ends hs hist point
    | select a hist point => exact burstInv_select hs hist point
    | openBurst since hist point => exact burstInv_openBurst hs since hist point
    | stream since move => exact burstInv_stream hs since move
    | other e hist prim point => exact burstInv_issues hs hist prim point
  · cases exec_otherMove hi h with
    | ends hist point => exact burstInv_ends hs hist point
    | issues e hist prim point => exact burstInv_issues hs hist prim point

/-- A host action issues no primitive; a command taken and a reset stand at points that need no open burst. -/
theorem HostEffect.burstInv {a : HostAction} (h : HostEffect a s t) : BurstInv t := by
  cases h with
  | discarded | memory | ignored | read | control => exact hs
  | command _ c =>
    rcases takeCommand_cases c s with ⟨-, hc⟩ | ⟨-, hc⟩ <;> rw [hc]
    · exact burstInv_of_free rfl rfl nofun hs.1
    · exact hs
  | reset => exact burstInv_ends hs rfl rfl

end

/-- Settles O58, by what a step can do. The turn taken off the schedule is no part of the discipline. -/
theorem burstDisciplineKept : Obligations.BurstDisciplineKept := by
  intro s t hs h
  have hs' : BurstInv (turnTaken s) := hs
  cases step_effect h with
  | host a _ effect => exact effect.burstInv hs'
  | idle _ next => exact next ▸ hs'
  | command _ i _ run => exact exec_burstInv hs' run

end Sys2Proof.Proofs
end

section
/-! PROOFS. The memories and the accumulation buffer (R81 to R85, R202, R203, R322): what one step of any command can do to the
buffer, the two invariants that follow from it, and the steps of a rotation. -/

namespace Sys2Proof.Proofs

open Sys2Proof Sys2Proof.Machine Sys2Proof.Safety Sys2Proof.Laws

/-! ### The buffer and its invariant -/

/-- The same ABUF, cursor and capacity. -/
structure SameBuffer (s t : State) : Prop where
  cfg : t.cfg = s.cfg
  cursor : t.capCursor = s.capCursor
  abuf : t.abuf = s.abuf

/-- The program points of a rotation that has not emptied the buffer yet (R203). -/
def fullPoint : Point → Bool
  | .rotDeasserted _ | .rotFlushed _ => true
  | _ => false

/-- The program points of a rotation that has emptied the buffer (R203). -/
def emptyPoint : Point → Bool
  | .rotAsserted _ | .rotBurst _ => true
  | _ => false

/-- The cursor is within the capacity, and every byte below it has been written (R202, R322). -/
def Filled (s : State) : Prop :=
  s.capCursor.toNat ≤ s.cfg.bufCap ∧ ∀ k < s.capCursor.toNat, (Memory.read (α := Byte) s.abuf k).isSome = true

/-- ABUF is in canonical form and inside its space (R84). -/
def AbufInside (s : State) : Prop := Memory.wf (α := Byte) s.abuf ∧ ∀ x ∈ s.abuf, x.1 < s.cfg.bufCap

theorem SameBuffer.filled {s t : State} (h : SameBuffer s t) (hs : Filled s) : Filled t := by
  rw [Filled, h.cursor, h.cfg, h.abuf]
  exact hs

theorem SameBuffer.abufInside {s t : State} (h : SameBuffer s t) (hs : AbufInside s) : AbufInside t := by
  rw [AbufInside, h.cfg, h.abuf]
  exact hs

/-- The buffer's invariant by the kind of the program point. -/
theorem bufferInv_iff (s : State) : BufferInv s ↔ Filled s ∧
    (fullPoint s.pcSeq = true → s.capCursor.toNat = s.cfg.bufCap) ∧ (emptyPoint s.pcSeq = true → s.capCursor = 0) := by
  unfold BufferInv Filled
  cases s.pcSeq <;> simp [fullPoint, emptyPoint, and_assoc]

/-- A capacity is at least 2 and fits the cursor (R6). -/
theorem bufCap_bounds (c : Params) : 2 ≤ c.bufCap ∧ c.bufCap < 2 ^ 32 := by
  have := c.bufCapLess2.isLt
  unfold Params.bufCap
  omega

/-- An empty buffer has room (R6). -/
theorem room_of_empty {s : State} (hc : s.capCursor = 0) : s.capCursor.toNat < s.cfg.bufCap := by
  rw [hc]
  exact Nat.zero_lt_two.trans_le (bufCap_bounds s.cfg).1

/-! ### Storing bytes -/

/-- The state after `b` was stored at the cursor (R202). -/
def withByte (b : Byte) (s : State) : State :=
  { s with abuf := Memory.write (α := Byte) s.abuf s.capCursor.toNat b, capCursor := s.capCursor + 1 }

/-- Below the capacity the cursor does not wrap (R6, R45). -/
theorem withByte_cursor {s : State} (room : s.capCursor.toNat < s.cfg.bufCap) (b : Byte) :
    (withByte b s).capCursor.toNat = s.capCursor.toNat + 1 := by
  have := (bufCap_bounds s.cfg).2
  show (s.capCursor + 1).toNat = _
  rw [BitVec.toNat_add_of_lt]
  · rfl
  · show s.capCursor.toNat + 1 < 2 ^ 32
    omega

theorem Filled.withByte {s : State} (hs : Filled s) (room : s.capCursor.toNat < s.cfg.bufCap) (b : Byte) :
    Filled (withByte b s) := by
  rw [Filled, withByte_cursor room]
  refine ⟨room, fun k hk => ?_⟩
  show (Memory.read (Memory.write (α := Byte) s.abuf s.capCursor.toNat b) k).isSome = true
  rw [read_write]
  split
  · rfl
  · exact hs.2 k (by omega)

theorem AbufInside.withByte {s : State} (hs : AbufInside s) (room : s.capCursor.toNat < s.cfg.bufCap) (b : Byte) :
    AbufInside (withByte b s) :=
  ⟨wf_write s.abuf _ b hs.1, bound_write b hs.2 room⟩

/-- The buffer of the second state is that of the first after some bytes were stored, each below the capacity (R202). -/
inductive Stored (s : State) : State → Prop
  | nothing {u : State} (same : SameBuffer s u) : Stored s u
  | byte {u v : State} (before : Stored s u) (room : u.capCursor.toNat < u.cfg.bufCap) (b : Byte)
      (same : SameBuffer (withByte b u) v) : Stored s v

section
variable {s u v : State}

theorem Stored.trans_same (h : Stored s u) (same : SameBuffer u v) : Stored s v := by
  have join {r : State} (h' : SameBuffer r u) : SameBuffer r v :=
    ⟨same.cfg.trans h'.cfg, same.cursor.trans h'.cursor, same.abuf.trans h'.abuf⟩
  cases h with
  | nothing h' => exact .nothing (join h')
  | byte before room b h' => exact .byte before room b (join h')

theorem Stored.filled (h : Stored s u) (hs : Filled s) : Filled u := by
  induction h with
  | nothing same => exact same.filled hs
  | byte _ room b same ih => exact same.filled (ih.withByte room b)

theorem Stored.abufInside (h : Stored s u) (hs : AbufInside s) : AbufInside u := by
  induction h with
  | nothing same => exact same.abufInside hs
  | byte _ room b same ih => exact same.abufInside (ih.withByte room b)

end

/-! ### What a step of a command can do to the buffer -/

/-- The two faults on ABUF (log 13). -/
def abufFault : Fault → Bool
  | .unwrittenAbuf _ | .outsideAbuf _ => true
  | .unwrittenTmem _ | .unwrittenLmem _ => false

/-- Everything that a step of a command can do to the buffer of the state `s` (R202, R203). -/
inductive BufferMove (s : State) : StepResult → Prop
  /-- The buffer stays, and a rotation is under way after the step only in the half it was in before. -/
  | keeps {t : State} (same : SameBuffer s t) (full : fullPoint t.pcSeq = true → fullPoint s.pcSeq = true)
      (empty : emptyPoint t.pcSeq = true → emptyPoint s.pcSeq = true) : BufferMove s (.next t)
  /-- The cursor is set to 0 (R193, R201, R203). -/
  | empties {t : State} (cfg : t.cfg = s.cfg) (cursor : t.capCursor = 0) (abuf : t.abuf = s.abuf)
      (full : fullPoint t.pcSeq = false) : BufferMove s (.next t)
  /-- Bytes are stored; a rotation begins with a full buffer only (R202). -/
  | stores {t : State} (stored : Stored s t) (full : fullPoint t.pcSeq = true → t.capCursor.toNat = t.cfg.bufCap)
      (empty : emptyPoint t.pcSeq = false) : BufferMove s (.next t)
  /-- A fault, on ABUF only against the invariant. -/
  | faults {r : Fault} (unsound : abufFault r = true → ¬BufferInv s) : BufferMove s (.fault r)

section
variable {s t : State}

theorem BufferMove.bufferInv (h : BufferMove s (.next t)) (hs : BufferInv s) : BufferInv t := by
  obtain ⟨hfilled, hfull, hempty⟩ := (bufferInv_iff s).1 hs
  cases h with
  | keeps same full empty =>
    rw [bufferInv_iff, same.cursor, same.cfg]
    exact ⟨same.filled hfilled, hfull ∘ full, hempty ∘ empty⟩
  | empties cfg cursor abuf full =>
    rw [bufferInv_iff, Filled, cursor]
    exact ⟨⟨Nat.zero_le _, nofun⟩, by simp [full], fun _ => rfl⟩
  | stores stored full empty => exact (bufferInv_iff t).2 ⟨stored.filled hfilled, full, by simp [empty]⟩

theorem BufferMove.abufInside (h : BufferMove s (.next t)) (hs : AbufInside s) : AbufInside t := by
  cases h with
  | keeps same => exact same.abufInside hs
  | empties cfg cursor abuf =>
    rw [AbufInside, cfg, abuf]
    exact hs
  | stores stored => exact stored.abufInside hs

/-- The buffer stays, and no rotation is under way after the step. -/
theorem BufferMove.aside (same : SameBuffer s t) (full : fullPoint t.pcSeq = false) (empty : emptyPoint t.pcSeq = false) :
    BufferMove s (.next t) :=
  .keeps same (by simp [full]) (by simp [empty])

end

/-! ### The capture engine -/

section
variable {s u : State}

theorem streamNext_bufferMove (h : Stored s u) : BufferMove s (.next (streamNext u)) := by
  rcases streamNext_cases u with ⟨-, e⟩ | ⟨-, e⟩ <;> rw [e]
  · exact .stores (h.trans_same ⟨rfl, rfl, rfl⟩) nofun rfl
  · exact .stores (h.trans_same ⟨rfl, rfl, rfl⟩) nofun rfl

/-- The bytes below the cursor can be read (R322). -/
theorem Filled.readRange (hu : Filled u) {n : Nat} (hn : n ≤ u.capCursor.toNat) :
    ∃ bytes, Memory.readRange (α := Byte) u.abuf 0 n = .ok bytes := by
  obtain ⟨bytes, hb, -⟩ := readRange_ok (α := Byte) u.abuf 0 n fun k hk => by
    rw [Nat.zero_add]
    exact hu.2 k (by omega)
  exact ⟨bytes, hb⟩

/-- A flush of bytes below the cursor does not fault. -/
theorem not_filled_of_flush_error {n i : Nat} (hn : n ≤ u.capCursor.toNat)
    (h : Memory.readRange (α := Byte) u.abuf 0 n = .error i) : ¬Filled u := by
  intro hu
  obtain ⟨bytes, hb⟩ := hu.readRange hn
  rw [hb] at h
  cases h

theorem Stored.not_bufferInv (h : Stored s u) (hu : ¬Filled u) : ¬BufferInv s := fun hs =>
  hu (h.filled ((bufferInv_iff s).1 hs).1)

theorem afterData_bufferMove (h : Stored s u) : BufferMove s (afterData u) := by
  rcases afterData_cases u with ⟨-, -, e⟩ | ⟨-, e⟩ <;> rw [e]
  · rcases flush_cases u.capCursor.toNat .eofFlushed u with ⟨bytes, -, e'⟩ | ⟨i, hi, e'⟩ <;> rw [e']
    · exact .stores (h.trans_same ⟨rfl, rfl, rfl⟩) nofun rfl
    · exact .faults fun _ => h.not_bufferInv (not_filled_of_flush_error le_rfl hi)
  · exact streamNext_bufferMove h

theorem store_bufferMove {site : StoreSite} {next : State → StepResult} (h : Stored s u)
    (hnext : ∀ v, Stored s v → BufferMove s (next v)) : BufferMove s (store site next u) := by
  rcases store_cases site next u with ⟨hfull, e⟩ | ⟨hpast, e⟩ | ⟨room, e⟩ <;> rw [e]
  · exact .stores (h.trans_same ⟨rfl, rfl, rfl⟩) (fun _ => hfull) rfl
  · exact .faults fun _ => h.not_bufferInv fun hu => absurd hu.1 (not_le.2 hpast)
  · exact hnext _ (.byte h room _ ⟨rfl, rfl, rfl⟩)

theorem afterStore_bufferMove (site : StoreSite) (h : Stored s u) : BufferMove s (afterStore site u) := by
  cases site with
  | startFF => exact store_bufferMove h fun v hv => streamNext_bufferMove hv
  | startD8 => exact streamNext_bufferMove h
  | data => exact afterData_bufferMove h

theorem examineWindow_bufferMove (h : Stored s u) : BufferMove s (examineWindow u) := by
  rcases examineWindow_cases u with ⟨-, e⟩ | ⟨-, -, -, e⟩ | ⟨-, -, e⟩ <;> rw [e]
  · exact store_bufferMove h fun v hv => afterData_bufferMove hv
  · exact store_bufferMove (h.trans_same ⟨rfl, rfl, rfl⟩) fun v hv =>
      store_bufferMove hv fun w hw => streamNext_bufferMove hw
  · exact streamNext_bufferMove h

theorem pollAgain_bufferMove (same : SameBuffer s u) : BufferMove s (.next (pollAgain u)) := by
  obtain ⟨hcfg, hcursor, habuf⟩ := same
  rcases pollAgain_cases u with ⟨-, e⟩ | ⟨-, -, e⟩ | ⟨-, -, e⟩ <;> rw [e]
  all_goals exact .aside ⟨hcfg, hcursor, habuf⟩ rfl rfl

theorem openBurst_bufferMove (same : SameBuffer s u) : BufferMove s (.next (openBurst u)) := by
  obtain ⟨hcfg, hcursor, habuf⟩ := same
  rcases openBurst_cases u with ⟨-, e⟩ | ⟨-, -, e⟩ | ⟨-, -, e⟩ <;> rw [e]
  all_goals exact .aside ⟨hcfg, hcursor, habuf⟩ rfl rfl

theorem afterPull_bufferMove (s : State) : BufferMove s (afterPull s) := by
  unfold afterPull
  split
  · exact .aside ⟨rfl, rfl, rfl⟩ rfl rfl
  · exact examineWindow_bufferMove (.nothing ⟨rfl, rfl, rfl⟩)

/-- A rotation's flush reads the full buffer (R203). -/
theorem afterRotDeassert_bufferMove {site : StoreSite} (hk : s.pcSeq = .rotDeasserted site) :
    BufferMove s (afterRotDeassert site s) := by
  have hpoint : fullPoint s.pcSeq = true := by rw [hk]; rfl
  rcases flush_cases s.cfg.bufCap (.rotFlushed site) { s with csState := .deselected } with ⟨bytes, -, e⟩ | ⟨i, hi, e⟩ <;>
    rw [afterRotDeassert, e]
  · exact .keeps ⟨rfl, rfl, rfl⟩ (fun _ => hpoint) nofun
  · refine .faults fun _ hs => ?_
    obtain ⟨hfilled, hfull, -⟩ := (bufferInv_iff s).1 hs
    exact not_filled_of_flush_error (hfull hpoint).ge hi hfilled

/-- A rotation's end stores into an empty buffer, which has room (R203). -/
theorem afterRotBurst_bufferMove {site : StoreSite} (hk : s.pcSeq = .rotBurst site) :
    BufferMove s (afterRotBurst site s) := by
  unfold afterRotBurst
  split
  · exact .aside ⟨rfl, rfl, rfl⟩ rfl rfl
  · rcases putByte_cases (storeByte site s) s with ⟨hfull, e⟩ | ⟨room, e⟩ <;> rw [e]
    · refine .faults fun _ hs => ?_
      obtain ⟨-, -, hempty⟩ := (bufferInv_iff s).1 hs
      exact absurd hfull (not_le.2 (room_of_empty (hempty (by rw [hk]; rfl))))
    · exact afterStore_bufferMove site (.byte (.nothing ⟨rfl, rfl, rfl⟩) room _ ⟨rfl, rfl, rfl⟩)

theorem execCapture_bufferMove (s : State) : BufferMove s (execCapture s) := by
  unfold execCapture
  split
  case h_1 => unfold afterArmClear; split <;> exact .aside ⟨rfl, rfl, rfl⟩ rfl rfl
  case h_2 =>
    unfold afterArmStart; split
    exacts [.aside ⟨rfl, rfl, rfl⟩ rfl rfl, pollAgain_bufferMove ⟨rfl, rfl, rfl⟩]
  case h_3 =>
    unfold afterPoll; split
    · exact .aside ⟨rfl, rfl, rfl⟩ rfl rfl
    · split
      exacts [.aside ⟨rfl, rfl, rfl⟩ rfl rfl, pollAgain_bufferMove ⟨rfl, rfl, rfl⟩]
  case h_4 => unfold afterSize1; split <;> exact .aside ⟨rfl, rfl, rfl⟩ rfl rfl
  case h_5 => unfold afterSize2; split <;> exact .aside ⟨rfl, rfl, rfl⟩ rfl rfl
  case h_6 =>
    unfold afterSize3; split
    exacts [.aside ⟨rfl, rfl, rfl⟩ rfl rfl, openBurst_bufferMove ⟨rfl, rfl, rfl⟩]
  case h_7 => exact .aside ⟨rfl, rfl, rfl⟩ rfl rfl
  case h_8 =>
    unfold afterBurstOpen; split
    exacts [.aside ⟨rfl, rfl, rfl⟩ rfl rfl, streamNext_bufferMove (.nothing ⟨rfl, rfl, rfl⟩)]
  case h_9 => exact afterPull_bufferMove s
  case h_10 hk => exact afterRotDeassert_bufferMove hk
  case h_11 =>
    unfold afterRotFlush; split
    exacts [.aside ⟨rfl, rfl, rfl⟩ rfl rfl, .empties rfl rfl rfl rfl]
  case h_12 hk => exact .keeps ⟨rfl, rfl, rfl⟩ nofun fun _ => by rw [hk]; rfl
  case h_13 hk => exact afterRotBurst_bufferMove hk
  case h_14 =>
    unfold afterEofFlush; split
    exacts [.aside ⟨rfl, rfl, rfl⟩ rfl rfl, .empties rfl rfl rfl rfl]
  case h_15 => exact .aside ⟨rfl, rfl, rfl⟩ rfl rfl
  case h_16 => exact .aside ⟨rfl, rfl, rfl⟩ rfl rfl
  case h_17 =>
    unfold captureFirst; split
    exacts [.aside ⟨rfl, rfl, rfl⟩ rfl rfl, .empties rfl rfl rfl rfl]

end

/-! ### The other commands -/

section
variable {s u : State}

/-- The register driver's program points lie outside a rotation. -/
theorem registerPoint_aside {k : Point} (h : registerPoint k = true) : fullPoint k = false ∧ emptyPoint k = false := by
  cases k with
  | delay | written | read => exact ⟨rfl, rfl⟩
  | _ => cases h

theorem portWrite_bufferMove {p : Port} {addr val : Half} (same : SameBuffer s u) :
    BufferMove s (.next (portWrite p addr val u)) := by
  obtain ⟨k, hk, e⟩ := portWrite_ask p addr val u
  obtain ⟨hcfg, hcursor, habuf⟩ := same
  obtain ⟨hfull, hempty⟩ := registerPoint_aside hk
  rw [e]
  exact .aside ⟨hcfg, hcursor, habuf⟩ hfull hempty

theorem wrCmd_bufferMove (p : Port) (addr val : Half) (s : State) : BufferMove s (wrCmd p addr val s) := by
  rcases wrCmd_cases p addr val s with ⟨-, e⟩ | ⟨-, -, -, -, e⟩ | ⟨-, -, -, -, e⟩ | ⟨-, -, e⟩ | ⟨-, -, -, e⟩ |
    ⟨-, -, -, e⟩ <;> rw [e]
  case inr.inr.inl => exact portWrite_bufferMove ⟨rfl, rfl, rfl⟩
  all_goals exact .aside ⟨rfl, rfl, rfl⟩ rfl rfl

theorem rdCmd_bufferMove (p : Port) (addr : Half) (s : State) : BufferMove s (rdCmd p addr s) := by
  rcases rdCmd_cases p addr s with ⟨-, e⟩ | ⟨-, -, -, e⟩ | ⟨-, -, -, e⟩ | ⟨-, -, -, e⟩ | ⟨v, -, -, -, e⟩ <;> rw [e]
  all_goals exact .aside ⟨rfl, rfl, rfl⟩ rfl rfl

theorem getBitCmd_bufferMove (p : Port) (addr : Half) (bit : BitVec 4) (s : State) :
    BufferMove s (getBitCmd p addr bit s) := by
  rcases getBitCmd_cases p addr bit s with ⟨-, e⟩ | ⟨-, -, -, e⟩ | ⟨-, -, -, e⟩ | ⟨-, -, -, e⟩ | ⟨v, -, -, -, e⟩ <;> rw [e]
  all_goals exact .aside ⟨rfl, rfl, rfl⟩ rfl rfl

theorem modifyCmd_bufferMove (p : Port) (addr : Half) (modify : Half → Half) (s : State) :
    BufferMove s (modifyCmd p addr modify s) := by
  rcases modifyCmd_cases p addr modify s with ⟨-, e⟩ | ⟨-, -, -, -, -, e⟩ | ⟨-, -, -, -, -, e⟩ | ⟨-, -, -, e⟩ |
    ⟨v, -, -, -, e⟩ | ⟨-, -, e⟩ | ⟨-, -, -, e⟩ | ⟨-, -, -, e⟩ <;> rw [e]
  case inr.inr.inr.inr.inl => exact portWrite_bufferMove ⟨rfl, rfl, rfl⟩
  all_goals exact .aside ⟨rfl, rfl, rfl⟩ rfl rfl

theorem tableEntry_bufferMove {p : Port} {tbase tlen : Half} (same : SameBuffer s u) :
    BufferMove s (tableEntry p tbase tlen u) := by
  obtain ⟨hcfg, hcursor, habuf⟩ := same
  rcases tableEntry_cases p tbase tlen u with ⟨-, e⟩ | ⟨-, -, -, e⟩ | ⟨x, -, -, -, -, e⟩ | ⟨x, -, -, -, -, e⟩ <;> rw [e]
  · exact .aside ⟨hcfg, hcursor, habuf⟩ rfl rfl
  · exact .faults nofun
  · exact .aside ⟨hcfg, hcursor, habuf⟩ rfl rfl
  · exact portWrite_bufferMove ⟨hcfg, hcursor, habuf⟩

theorem tblCmd_bufferMove (p : Port) (tbase tlen : Half) (s : State) : BufferMove s (tblCmd p tbase tlen s) := by
  rcases tblCmd_cases p tbase tlen s with ⟨-, e⟩ | ⟨-, -, e⟩ | ⟨-, -, -, e⟩ | ⟨-, -, -, e⟩ | ⟨-, -, -, e⟩ <;> rw [e]
  · exact .aside ⟨rfl, rfl, rfl⟩ rfl rfl
  · exact .aside ⟨rfl, rfl, rfl⟩ rfl rfl
  · exact .aside ⟨rfl, rfl, rfl⟩ rfl rfl
  · exact tableEntry_bufferMove ⟨rfl, rfl, rfl⟩
  · exact tableEntry_bufferMove ⟨rfl, rfl, rfl⟩

theorem execDeselect_bufferMove (s : State) : BufferMove s (execDeselect s) := by
  rcases execDeselect_cases s with ⟨-, e⟩ | ⟨-, e⟩ <;> rw [e]
  · exact .aside ⟨rfl, rfl, rfl⟩ rfl rfl
  · exact .aside ⟨rfl, rfl, rfl⟩ rfl rfl

/-- An NMEA command ends out of range, faults on LMEM, or ends with what it decodes (R240). -/
theorem withBuffer_bufferMove {lbase llen : Half} {next : List Byte → StepResult}
    (hnext : ∀ buffer, BufferMove s (next buffer)) : BufferMove s (withBuffer lbase llen s next) := by
  rcases withBuffer_cases lbase llen s next with ⟨-, e⟩ | ⟨i, -, -, e⟩ | ⟨buffer, -, -, e⟩ <;> rw [e]
  · exact .aside ⟨rfl, rfl, rfl⟩ rfl rfl
  · exact .faults nofun
  · exact hnext buffer

theorem execNmeaLine_bufferMove (lbase llen : Half) (s : State) : BufferMove s (execNmeaLine lbase llen s) :=
  withBuffer_bufferMove fun buffer => by
    rw [endLine, countLine_eq]
    exact .aside ⟨rfl, rfl, rfl⟩ rfl rfl

theorem execNmeaBuf_bufferMove (lbase llen : Half) (s : State) : BufferMove s (execNmeaBuf lbase llen s) :=
  withBuffer_bufferMove fun buffer => by
    rw [foldBuffer_eq]
    exact .aside ⟨rfl, rfl, rfl⟩ rfl rfl

end

/-- What a step of any command can do to the buffer. -/
theorem exec_bufferMove (i : Instr) (s : State) : BufferMove s (exec i s) := by
  rcases exec_family i with rfl | ⟨p, a, v, hf⟩ | ⟨p, a, hf⟩ | ⟨p, a, n, -, hf⟩ | ⟨p, a, m, hf⟩ | ⟨p, a, k, hf⟩ | rfl |
    rfl | ⟨l, n, rfl⟩ | ⟨l, n, rfl⟩
  · exact .aside ⟨rfl, rfl, rfl⟩ rfl rfl
  · exact hf s ▸ wrCmd_bufferMove p a v s
  · exact hf s ▸ rdCmd_bufferMove p a s
  · exact hf s ▸ tblCmd_bufferMove p a n s
  · exact hf s ▸ modifyCmd_bufferMove p a m s
  · exact hf s ▸ getBitCmd_bufferMove p a k s
  · exact execCapture_bufferMove s
  · exact execDeselect_bufferMove s
  · exact execNmeaLine_bufferMove l n s
  · exact execNmeaBuf_bufferMove l n s

/-! ### The buffer's invariant at every step -/

/-- A host action but reset leaves the buffer; a command taken stands at a point outside a rotation. -/
theorem HostEffect.bufferInv {a : HostAction} {s t : State} (h : HostEffect a s t) (hs : BufferInv s) : BufferInv t := by
  cases h with
  | discarded | memory | ignored | read | control => exact hs
  | command _ c =>
    rcases takeCommand_cases c s with ⟨-, e⟩ | ⟨-, e⟩ <;> rw [e]
    · exact (bufferInv_iff _).2 ⟨((bufferInv_iff s).1 hs).1, nofun, nofun⟩
    · exact hs
  | reset => exact (bufferInv_iff _).2 ⟨⟨Nat.zero_le _, nofun⟩, nofun, nofun⟩

/-- Only a command's step faults (R9). -/
theorem exec_of_step_fault {s : State} {r : Fault} (h : step s = .fault r) : ∃ i, exec i (turnTaken s) = .fault r := by
  rcases step_host_or_sequencer s with ⟨a, -, e⟩ | e <;> rw [e] at h
  · cases h
  · unfold seqStep at h
    split at h
    · split at h
      · exact ⟨_, h⟩
      · cases h
    · cases h

/-- Under the buffer's invariant no step faults on ABUF (R202, R322). -/
theorem abufFault_of_step_fault {s : State} {r : Fault} (hs : BufferInv s) (h : step s = .fault r) :
    abufFault r = false := by
  obtain ⟨i, hi⟩ := exec_of_step_fault h
  have move := exec_bufferMove i (turnTaken s)
  rw [hi] at move
  cases move with
  | faults unsound => exact Bool.eq_false_of_not_eq_true fun hr => unsound hr hs

/-- Settles O57, by what a step of a command can do to the buffer. The turn taken off the schedule is no part of it. -/
theorem bufferInvariantKept : Obligations.BufferInvariantKept := by
  intro s hs
  have hs' : BufferInv (turnTaken s) := hs
  refine ⟨fun t h => ?_, fun k => ⟨fun h => ?_, fun h => ?_⟩⟩
  · cases step_effect h with
    | host a _ effect => exact effect.bufferInv hs'
    | idle _ next => exact next ▸ hs'
    | command _ i _ run => exact (run ▸ exec_bufferMove i (turnTaken s)).bufferInv hs'
  · cases abufFault_of_step_fault hs h
  · cases abufFault_of_step_fault hs h

/-! ### The memories' invariant at every step -/

/-- The memories' invariant is about TMEM and LMEM on the host's side, and about ABUF. -/
theorem memoryInv_iff (s : State) : MemoryInv s ↔
    (Memory.wf s.tmem ∧ ∀ x ∈ s.tmem, x.1 < s.cfg.tmemEntries) ∧
    (Memory.wf (α := Byte) s.lmem ∧ ∀ x ∈ s.lmem, x.1 < s.cfg.lmemBytes) ∧ AbufInside s := by
  unfold MemoryInv AbufInside
  tauto

section
variable {s : State} (hs : MemoryInv s)
include hs

theorem takeCommand_memoryInv (c : Desc) : MemoryInv (takeCommand c s) := by
  rcases takeCommand_cases c s with ⟨-, e⟩ | ⟨-, e⟩ <;> rw [e]
  exacts [hs, hs]

theorem hostWriteReg_memoryInv (k : Nat) (v : BitVec 64) : MemoryInv (hostWriteReg k v s) := by
  match k with
  | 0 =>
    show MemoryInv (hostWriteCmd v s)
    unfold hostWriteCmd
    split
    exacts [hs, takeCommand_memoryInv hs v]
  | 1 => exact hs
  | _ + 2 => exact hs

theorem hostWriteTmem_memoryInv (i : Nat) (e : Word32) : MemoryInv (hostWriteTmem i e s) := by
  unfold hostWriteTmem
  split_ifs with hb hi
  · exact hs
  · obtain ⟨⟨hwf, hin⟩, hlmem, habuf⟩ := (memoryInv_iff s).1 hs
    exact (memoryInv_iff _).2 ⟨⟨wf_write _ i e hwf, bound_write e hin hi⟩, hlmem, habuf⟩
  · exact hs

theorem hostWriteLmem_memoryInv (i : Nat) (b : Byte) : MemoryInv (hostWriteLmem i b s) := by
  unfold hostWriteLmem
  split_ifs with hb hi
  · exact hs
  · obtain ⟨htmem, ⟨hwf, hin⟩, habuf⟩ := (memoryInv_iff s).1 hs
    exact (memoryInv_iff _).2 ⟨htmem, ⟨wf_write _ i b hwf, bound_write b hin hi⟩, habuf⟩
  · exact hs

/-- A host action writes an accepted unit inside its memory, and a reset clears all three (R306, R322). -/
theorem hostAct_memoryInv (a : HostAction) : MemoryInv (hostAct a s) := by
  cases a with
  | writeReg k v => exact hostWriteReg_memoryInv hs k v
  | writeTmem i e => exact hostWriteTmem_memoryInv hs i e
  | writeLmem i b => exact hostWriteLmem_memoryInv hs i b
  | readReg k => exact hs
  | reset => exact ⟨.nil, .nil, .nil, nofun, nofun, nofun⟩

/-- A step of a command leaves TMEM and LMEM, and stores inside ABUF only (R95, R202). -/
theorem exec_memoryInv {i : Instr} {t : State} (h : exec i s = .next t) : MemoryInv t := by
  obtain ⟨htmem, hlmem, -, -, hcfg, -⟩ := exec_hostSideKept h
  obtain ⟨ht, hl, ha⟩ := (memoryInv_iff s).1 hs
  refine (memoryInv_iff t).2 ⟨?_, ?_, (h ▸ exec_bufferMove i s).abufInside ha⟩
  · rwa [htmem, hcfg]
  · rwa [hlmem, hcfg]

end

/-- Settles O56, by what a step can do. The turn taken off the schedule is no part of the invariant. -/
theorem memoryInvariantKept : Obligations.MemoryInvariantKept := by
  intro s t hs h
  have hs' : MemoryInv (turnTaken s) := hs
  cases step_effect h with
  | host a turn =>
    obtain rfl : hostAct a (turnTaken s) = t := Host.Outcome.next.inj ((step_of_inputs_host turn).symm.trans h)
    exact hostAct_memoryInv hs' a
  | idle _ next => exact next ▸ hs'
  | command _ i _ run => exact exec_memoryInv hs' run

end Sys2Proof.Proofs
end

section
/-! PROOFS. A rotation of the accumulation buffer (R85, R202, R203), step by step. -/

namespace Sys2Proof.Proofs

open Sys2Proof Sys2Proof.Machine Sys2Proof.Safety Sys2Proof.Laws

section
variable {s : State}

/-- A store into a full buffer begins a rotation (R202, R203). -/
theorem store_of_full {site : StoreSite} {next : State → StepResult} (hfull : s.capCursor.toNat = s.cfg.bufCap) :
    store site next s = .next (signal .csDeassert (.rotDeasserted site) s) := by
  rw [store, if_pos hfull]

/-- A byte pulled inside a frame is stored (R199). -/
theorem execCapture_pulled_inFrame {v : Half} (hk : s.pcSeq = .pulled) (ha : s.ans = .ok v) (hf : s.inFrame = true) :
    execCapture s = store .data afterData (slideWindow (v.setWidth 8) s) := by
  simp only [execCapture, hk, afterPull, ha]
  rcases examineWindow_cases (slideWindow (v.setWidth 8) s) with ⟨-, e⟩ | ⟨hf', -⟩ | ⟨hf', -⟩
  · exact e
  · rw [slideWindow_inFrame, hf] at hf'
    cases hf'
  · rw [slideWindow_inFrame, hf] at hf'
    cases hf'

/-- The flush of a rotation writes the whole buffer to the sink (R203). -/
theorem execCapture_rotDeasserted {site : StoreSite} {bytes : List Byte} (hk : s.pcSeq = .rotDeasserted site)
    (hb : Memory.readRange (α := Byte) s.abuf 0 s.cfg.bufCap = .ok bytes) :
    execCapture s = .next (askSink bytes (.rotFlushed site) { s with csState := .deselected }) := by
  simp only [execCapture, hk, afterRotDeassert, flush, hb]

/-- The flush answered `Ok` is counted, the cursor is set to 0 and chip-select is asserted (R203). -/
theorem execCapture_rotFlushed {site : StoreSite} {v : Half} (hk : s.pcSeq = .rotFlushed site) (ha : s.ans = .ok v) :
    execCapture s = .next (signal .csAssert (.rotAsserted site)
      { s with capOut := s.capOut + BitVec.ofNat 32 s.cfg.bufCap, capCursor := 0 }) := by
  simp only [execCapture, hk, afterRotFlush, ha]

/-- The burst is re-issued (R203). -/
theorem execCapture_rotAsserted {site : StoreSite} (hk : s.pcSeq = .rotAsserted site) :
    execCapture s = .next (ask .burstBegin (.rotBurst site) { s with csState := .asserted }) := by
  simp only [execCapture, hk, afterRotAssert]

/-- The burst answered `Ok`, the byte pulled before the rotation is stored at index 0 and the capture goes on (R202, R203). -/
theorem execCapture_rotBurst_data {v : Half} (hk : s.pcSeq = .rotBurst .data) (ha : s.ans = .ok v)
    (hc : s.capCursor = 0) : execCapture s = afterData (withByte s.capCur s) := by
  simp only [execCapture, hk]
  unfold afterRotBurst
  split
  · next ha' =>
    rw [ha] at ha'
    cases ha'
  · rcases putByte_cases (storeByte .data s) s with ⟨hfull, -⟩ | ⟨-, e⟩
    · exact absurd hfull (not_le.2 (room_of_empty hc))
    · rw [e]
      rfl

/-- What goes on after a byte of the frame was stored: one event, by the window and the bytes that remain (R201, R204). -/
def GoesOn (u t : State) (bytes : List Byte) : Prop :=
  ∃ e, t.hist = u.hist ++ [e] ∧
    (if u.capPrev = 0xFF ∧ u.capCur = 0xD9 then e.prim = .sinkWrite bytes ∧ t.pcSeq = .eofFlushed
      else if u.capRemain = 0 then e.prim = .csDeassert ∧ t.pcSeq = .exhausted
      else e.prim = .xfer 0x00 ∧ t.pcSeq = .pulled)

/-- After a byte of the frame was stored the buffer stays, and if it ended the frame all its bytes are flushed (R201). -/
theorem afterData_goesOn {bytes : List Byte}
    (hb : s.capCur = 0xD9 → Memory.readRange (α := Byte) s.abuf 0 s.capCursor.toNat = .ok bytes) :
    ∃ t, afterData s = .next t ∧ SameBuffer s t ∧ GoesOn s t bytes := by
  rcases afterData_cases s with ⟨hprev, hcur, e⟩ | ⟨hwin, e⟩ <;> rw [e]
  · refine ⟨askSink bytes .eofFlushed s, by simp only [flush, hb hcur], ⟨rfl, rfl, rfl⟩, _, rfl, ?_⟩
    rw [if_pos ⟨hprev, hcur⟩]
    exact ⟨rfl, rfl⟩
  · rcases streamNext_cases s with ⟨hrem, e'⟩ | ⟨hrem, e'⟩ <;> rw [e']
    · refine ⟨_, rfl, ⟨rfl, rfl, rfl⟩, _, rfl, ?_⟩
      rw [if_neg hwin, if_pos hrem]
      exact ⟨rfl, rfl⟩
    · refine ⟨_, rfl, ⟨rfl, rfl, rfl⟩, _, rfl, ?_⟩
      rw [if_neg hwin, if_neg hrem]
      exact ⟨rfl, rfl⟩

end

/-- Settles O39, clause by clause: each is the equation of its step, and the last stores the only byte of the buffer. -/
theorem captureRotates : Obligations.CaptureRotates := by
  intro s site
  refine ⟨fun v hk ha hf hfull => ?_, fun bytes hk hb => ?_, fun v hk ha => execCapture_rotFlushed hk ha,
    fun hk => execCapture_rotAsserted hk, fun v hk ha hc => ?_⟩
  · exact (execCapture_pulled_inFrame hk ha hf).trans (store_of_full hfull)
  · exact execCapture_rotDeasserted hk hb
  · have habuf : (withByte s.capCur s).abuf = Memory.write (α := Byte) s.abuf 0 s.capCur := by simp [withByte, hc]
    have hcursor : (withByte s.capCur s).capCursor = 1 := by simp [withByte, hc]
    have hb : s.capCur = 0xD9 → Memory.readRange (α := Byte) (withByte s.capCur s).abuf 0
        (withByte s.capCur s).capCursor.toNat = .ok [0xD9] := by
      intro hcur
      rw [habuf, hcursor, hcur]
      simp [Memory.readRange]
    obtain ⟨t, ht, same, e, hhist, hgoes⟩ := afterData_goesOn (s := withByte s.capCur s) hb
    refine ⟨t, e, (execCapture_rotBurst_data hk ha hc).trans ht, same.cursor.trans hcursor, ?_, fun a hne => ?_, hhist, hgoes⟩
    · rw [same.abuf, habuf, read_write_same]
    · rw [same.abuf, habuf, read_write_other _ _ hne]

end Sys2Proof.Proofs
end

section
/-! PROOFS. The encoding of commands (R110 to R121) and the write to CMD that takes one (R118): decoder and encoder are
inverse to each other on the legal descriptors, and the rows of the opcode map partition them. -/

namespace Sys2Proof.Proofs

open Sys2Proof Sys2Proof.Machine Sys2Proof.Safety Sys2Proof.Laws

/-! ### From a command to its descriptor and back -/

/-- Settles O1, by the round trip on the assembled fields of each command. -/
theorem decodeUndoesEncode : Obligations.DecodeUndoesEncode := fun _ => decode_encode

/-! ### From a descriptor to its command and back -/

/-- What the decoder reads from these fields, if it accepts them, is well-formed and has the descriptor with these fields. -/
def ReadsBack (opc : Byte) (port : BitVec 3) (bit : BitVec 4) (addr val : Half) (o : Except DecodeError Instr) : Prop :=
  ∀ i, o = .ok i → i.wellFormed = true ∧ encode i = assemble opc port bit addr val

/-- The decoder of a bit operation, given its command on each port: SETB, CLRB and GETB decode alike (R114, R117). -/
def decodeBitOp (a8d8 a16d8 a8d16 a16d16 tb : Half → BitVec 4 → Instr) (port : BitVec 3) (bit : BitVec 4)
    (addr val : Half) : Except DecodeError Instr :=
  if val ≠ 0 then .error .valNotZero else
  match port.toNat with
  | 0 => if bit.toNat ≤ 7 then .ok (a8d8 addr bit) else .error .bitOutOfRange
  | 1 => if bit.toNat ≤ 7 then .ok (a16d8 addr bit) else .error .bitOutOfRange
  | 2 => .ok (a8d16 addr bit)
  | 3 => .ok (a16d16 addr bit)
  | 4 => if bit.toNat ≤ 7 then .ok (tb addr bit) else .error .bitOutOfRange
  | _ => .error .badPort

theorem decodeSetb_eq : decodeSetb = decodeBitOp .setbA8D8 .setbA16D8 .setbA8D16 .setbA16D16 .setbTB := rfl
theorem decodeClrb_eq : decodeClrb = decodeBitOp .clrbA8D8 .clrbA16D8 .clrbA8D16 .clrbA16D16 .clrbTB := rfl
theorem decodeGetb_eq : decodeGetb = decodeBitOp .getbA8D8 .getbA16D8 .getbA8D16 .getbA16D16 .getbTB := rfl

/-- `op` is the bit operation `opc` on `port`: well-formed up to the bit index `top` (R114), with its descriptor (R120). -/
def BitOpOn (opc : Byte) (port : BitVec 3) (top : Nat) (op : Half → BitVec 4 → Instr) : Prop :=
  ∀ addr bit, (bit.toNat ≤ top → (op addr bit).wellFormed = true) ∧ encode (op addr bit) = assemble opc port bit addr 0

/-- A number that is a bit vector's value names the bit vector. -/
theorem eq_ofNat {w n : Nat} {x : BitVec w} (h : x.toNat = n) : x = BitVec.ofNat w n := (BitVec.toNat_eq_nat.1 h).2

section
variable {opc : Byte} {port : BitVec 3} {bit : BitVec 4} {addr val : Half}

/-- An error claims nothing. -/
theorem ReadsBack.error {e : DecodeError} : ReadsBack opc port bit addr val (.error e) := nofun

theorem ReadsBack.ok {i : Instr} (hw : i.wellFormed = true) (he : encode i = assemble opc port bit addr val) :
    ReadsBack opc port bit addr val (.ok i) := by
  rintro _ ⟨⟩
  exact ⟨hw, he⟩

theorem decodePlain_readsBack {i : Instr} (hw : i.wellFormed = true) (he : encode i = assemble opc 0 0 0 0) :
    ReadsBack opc port bit addr val (decodePlain i port bit addr val) := by
  unfold decodePlain
  split_ifs with hp hb ha hv
  case neg =>
    rw [not_not.1 hp, not_not.1 hb, not_not.1 ha, not_not.1 hv]
    exact .ok hw he
  all_goals exact .error

theorem decodeRange_readsBack {i : Half → Half → Instr} (hw : ∀ a v, (i a v).wellFormed = true)
    (he : ∀ a v, encode (i a v) = assemble opc 0 0 a v) :
    ReadsBack opc port bit addr val (decodeRange i port bit addr val) := by
  unfold decodeRange
  split_ifs with hp hb
  case neg =>
    rw [not_not.1 hp, not_not.1 hb]
    exact .ok (hw addr val) (he addr val)
  all_goals exact .error

theorem decodeWr_readsBack : ReadsBack 0x01 port bit addr val (decodeWr port bit addr val) := by
  unfold decodeWr
  split_ifs with hb
  · exact .error
  rw [not_not.1 hb]
  split
  case h_6 => exact .error
  all_goals
    next hp =>
      rw [eq_ofNat hp]
      exact .ok rfl rfl

theorem decodeRd_readsBack : ReadsBack 0x02 port bit addr val (decodeRd port bit addr val) := by
  unfold decodeRd
  split_ifs with hb hv
  · exact .error
  · exact .error
  rw [not_not.1 hb, not_not.1 hv]
  split
  case h_6 => exact .error
  all_goals
    next hp =>
      rw [eq_ofNat hp]
      exact .ok rfl rfl

theorem decodeTbl_readsBack : ReadsBack 0x03 port bit addr val (decodeTbl port bit addr val) := by
  unfold decodeTbl
  split_ifs with hb
  · exact .error
  rw [not_not.1 hb]
  split
  case h_5 => exact .error
  all_goals
    next hp =>
      rw [eq_ofNat hp]
      exact .ok rfl rfl

/-- On an 8-bit data port a bit operation is read only with a bit index up to 7 (R114). -/
theorem BitOpOn.readsBack_narrow {op : Half → BitVec 4 → Instr} (h : BitOpOn opc port 7 op) :
    ReadsBack opc port bit addr 0 (if bit.toNat ≤ 7 then .ok (op addr bit) else .error .bitOutOfRange) := by
  obtain ⟨hw, he⟩ := h addr bit
  split_ifs with hb
  · exact .ok (hw hb) he
  · exact .error

/-- On a 16-bit data port a bit operation is read with every bit index (R114). -/
theorem BitOpOn.readsBack_wide {op : Half → BitVec 4 → Instr} (h : BitOpOn opc port 15 op) :
    ReadsBack opc port bit addr 0 (.ok (op addr bit)) := by
  obtain ⟨hw, he⟩ := h addr bit
  exact .ok (hw (Nat.le_of_lt_succ bit.isLt)) he

theorem decodeBitOp_readsBack {a8d8 a16d8 a8d16 a16d16 tb : Half → BitVec 4 → Instr} (h0 : BitOpOn opc 0 7 a8d8)
    (h1 : BitOpOn opc 1 7 a16d8) (h2 : BitOpOn opc 2 15 a8d16) (h3 : BitOpOn opc 3 15 a16d16) (h4 : BitOpOn opc 4 7 tb) :
    ReadsBack opc port bit addr val (decodeBitOp a8d8 a16d8 a8d16 a16d16 tb port bit addr val) := by
  by_cases hv : val = 0
  · rw [decodeBitOp, if_neg (not_not.2 hv), hv]
    split
    case h_1 hp => rw [eq_ofNat hp]; exact h0.readsBack_narrow
    case h_2 hp => rw [eq_ofNat hp]; exact h1.readsBack_narrow
    case h_3 hp => rw [eq_ofNat hp]; exact h2.readsBack_wide
    case h_4 hp => rw [eq_ofNat hp]; exact h3.readsBack_wide
    case h_5 hp => rw [eq_ofNat hp]; exact h4.readsBack_narrow
    case h_6 => exact .error
  · rw [decodeBitOp, if_pos hv]
    exact .error

theorem decodeSetb_readsBack : ReadsBack 0x04 port bit addr val (decodeSetb port bit addr val) := by
  rw [decodeSetb_eq]
  apply decodeBitOp_readsBack
  case h2 | h3 => exact fun _ _ => ⟨fun _ => rfl, rfl⟩
  all_goals exact fun _ _ => ⟨decide_eq_true, rfl⟩

theorem decodeClrb_readsBack : ReadsBack 0x05 port bit addr val (decodeClrb port bit addr val) := by
  rw [decodeClrb_eq]
  apply decodeBitOp_readsBack
  case h2 | h3 => exact fun _ _ => ⟨fun _ => rfl, rfl⟩
  all_goals exact fun _ _ => ⟨decide_eq_true, rfl⟩

theorem decodeGetb_readsBack : ReadsBack 0x06 port bit addr val (decodeGetb port bit addr val) := by
  rw [decodeGetb_eq]
  apply decodeBitOp_readsBack
  case h2 | h3 => exact fun _ _ => ⟨fun _ => rfl, rfl⟩
  all_goals exact fun _ _ => ⟨decide_eq_true, rfl⟩

/-- What the decoder reads from the fields reads back, operation by operation (R113). -/
theorem decodeFields_readsBack : ReadsBack opc port bit addr val (decodeFields opc port bit addr val) := by
  unfold decodeFields
  split
  case h_1 ho => rw [eq_ofNat ho]; exact decodePlain_readsBack rfl rfl
  case h_2 ho => rw [eq_ofNat ho]; exact decodeWr_readsBack
  case h_3 ho => rw [eq_ofNat ho]; exact decodeRd_readsBack
  case h_4 ho => rw [eq_ofNat ho]; exact decodeTbl_readsBack
  case h_5 ho => rw [eq_ofNat ho]; exact decodeSetb_readsBack
  case h_6 ho => rw [eq_ofNat ho]; exact decodeClrb_readsBack
  case h_7 ho => rw [eq_ofNat ho]; exact decodeGetb_readsBack
  case h_8 ho => rw [eq_ofNat ho]; exact decodePlain_readsBack rfl rfl
  case h_9 ho => rw [eq_ofNat ho]; exact decodePlain_readsBack rfl rfl
  case h_10 ho => rw [eq_ofNat ho]; exact decodeRange_readsBack (fun _ _ => rfl) (fun _ _ => rfl)
  case h_11 ho => rw [eq_ofNat ho]; exact decodeRange_readsBack (fun _ _ => rfl) (fun _ _ => rfl)
  case h_12 => exact .error

end

/-- A descriptor whose reserved fields are zero is assembled from its fields (R111). -/
theorem assemble_fields {c : Desc} (h0 : rsv0Field c = 0) (h1 : rsv1Field c = 0) :
    assemble (opcField c) (portField c) (bitField c) (addrField c) (valField c) = c := by
  apply BitVec.eq_of_toNat_eq
  have h0' := congrArg BitVec.toNat h0
  have h1' := congrArg BitVec.toNat h1
  simp only [assemble_toNat, opcField, portField, bitField, addrField, valField, rsv0Field, rsv1Field,
    BitVec.extractLsb'_toNat, Nat.shiftRight_eq_div_pow] at h0' h1' ⊢
  change _ = 0 at h0'
  change _ = 0 at h1'
  have := c.isLt
  omega

/-- What the decoder reads is well-formed and has the descriptor it was read from (R118). -/
theorem encode_of_decode {c : Desc} {i : Instr} (h : decode c = .ok i) : i.wellFormed = true ∧ encode i = c := by
  by_cases hr : rsv0Field c ≠ 0 ∨ rsv1Field c ≠ 0
  · rw [decode, if_pos hr] at h
    cases h
  · rw [decode, if_neg hr] at h
    obtain ⟨h0, h1⟩ := not_or.1 hr
    obtain ⟨hw, he⟩ := decodeFields_readsBack i h
    exact ⟨hw, he.trans (assemble_fields (not_not.1 h0) (not_not.1 h1))⟩

/-- Settles O2: what decodes is the descriptor of a well-formed command, and such a descriptor is legal. -/
theorem decoderReadsExactlyLegal : Obligations.DecoderReadsExactlyLegal := by
  refine fun c => ⟨⟨decode_of_legal, fun ⟨i, h⟩ => ?_⟩, fun i => encode_of_decode⟩
  obtain ⟨hw, rfl⟩ := encode_of_decode h
  exact legal_encode hw

/-! ### The opcode map -/

/-- Every row fixes `OPC`, `PORT` and the reserved fields (R120). -/
theorem opcodeRows_mask : ∀ r ∈ opcodeRows, opcField r.mask = BitVec.allOnes 8 ∧ portField r.mask = BitVec.allOnes 3 ∧
    rsv0Field r.mask = BitVec.allOnes 1 ∧ rsv1Field r.mask = BitVec.allOnes 16 := by decide

/-- Beside `OPC` and `PORT` a row's pattern is zero (R120). -/
theorem opcodeRows_pattern : ∀ r ∈ opcodeRows, rsv0Field r.pattern = 0 ∧ rsv1Field r.pattern = 0 ∧
    bitField r.pattern = 0 ∧ addrField r.pattern = 0 ∧ valField r.pattern = 0 := by decide

/-- A row stands for an operation of R113 on a port that it may name. -/
theorem opcodeRows_legalPort : ∀ r ∈ opcodeRows, knownOpcode (opcField r.pattern) = true ∧
    legalPort (opcField r.pattern) (portField r.pattern) = true := by decide

/-- The bits of `BIT` that a row leaves free make the legal bit indices (R114). -/
theorem opcodeRows_legalBit : ∀ r ∈ opcodeRows, ∀ bit : BitVec 4, bit &&& bitField r.mask = 0 →
    legalBit (opcField r.pattern) (portField r.pattern) bit = true := by decide

/-- The bits of `ADDR` and `VAL` that a row leaves free are in fields its operation uses (R117). -/
theorem opcodeRows_legalOperands : ∀ r ∈ opcodeRows,
    legalOperands (opcField r.pattern) (~~~addrField r.mask) (~~~valField r.mask) = true := by decide

/-- The operation code and the port of a descriptor. -/
def opcPort (c : Desc) : Byte × BitVec 3 := (opcField c, portField c)

/-- Each row has an operation code and port of its own (R120). -/
theorem opcodeRows_nodup_opcPort : (opcodeRows.map fun r => opcPort r.pattern).Nodup := by decide

/-- A row that matches a descriptor matches it field by field. -/
theorem extractLsb'_of_covers {r : TableRow} {c : Desc} (h : r.covers c = true) (start len : Nat) :
    c.extractLsb' start len &&& r.mask.extractLsb' start len = r.pattern.extractLsb' start len := by
  rw [← BitVec.extractLsb'_and, eq_of_beq h]

/-- A row that matches a descriptor has its operation code and port. -/
theorem opcPort_of_covers {r : TableRow} {c : Desc} (hr : r ∈ opcodeRows) (h : r.covers c = true) :
    opcPort c = opcPort r.pattern := by
  obtain ⟨ho, hp, -, -⟩ := opcodeRows_mask r hr
  have ho' : opcField c &&& opcField r.mask = opcField r.pattern := extractLsb'_of_covers h 0 8
  have hp' : portField c &&& portField r.mask = portField r.pattern := extractLsb'_of_covers h 8 3
  rw [ho, BitVec.and_allOnes] at ho'
  rw [hp, BitVec.and_allOnes] at hp'
  rw [opcPort, ho', hp', opcPort]

/-- No descriptor is matched by two rows (R120). -/
theorem length_covering_le_one (c : Desc) : (opcodeRows.filter fun r => r.covers c).length ≤ 1 := by
  have hall : ∀ k ∈ (opcodeRows.filter fun r => r.covers c).map fun r => opcPort r.pattern, k = opcPort c := by
    intro k hk
    obtain ⟨r, hr, rfl⟩ := List.mem_map.1 hk
    obtain ⟨hmem, hcov⟩ := List.mem_filter.1 hr
    exact (opcPort_of_covers hmem hcov).symm
  have hnodup := opcodeRows_nodup_opcPort.sublist ((List.filter_sublist (p := fun r => r.covers c)).map _)
  rw [List.eq_replicate_of_mem hall, List.nodup_replicate, List.length_map] at hnodup
  exact hnodup

/-- A field that a mask without free bits finds zero is zero. -/
theorem eq_zero_of_and_of_not {x m : Half} (hx : x &&& m = 0) (hm : ~~~m = 0) : x = 0 := by
  have hm' : m = BitVec.allOnes 16 := by rw [← BitVec.not_not (b := m), hm]; rfl
  rwa [hm', BitVec.and_allOnes] at hx

/-- Operands are legal if the bits outside their masks make legal operands and the bits under the masks are zero. -/
theorem legalOperands_of_masked {opc : Byte} {addr ma val mv : Half} (h : legalOperands opc (~~~ma) (~~~mv) = true)
    (ha : addr &&& ma = 0) (hv : val &&& mv = 0) : legalOperands opc addr val = true := by
  simp only [legalOperands, Bool.and_eq_true, Bool.or_eq_true, beq_iff_eq] at h ⊢
  obtain ⟨hread, hplain⟩ := h
  exact ⟨hread.imp_right (eq_zero_of_and_of_not hv),
    hplain.imp_right (And.imp (eq_zero_of_and_of_not ha) (eq_zero_of_and_of_not hv))⟩

/-- A descriptor that a row matches is legal: each of its fields passes its test (R117). -/
theorem legal_of_covers {r : TableRow} {c : Desc} (hr : r ∈ opcodeRows) (h : r.covers c = true) : legal c = true := by
  obtain ⟨-, -, m0, m1⟩ := opcodeRows_mask r hr
  obtain ⟨p0, p1, pbit, paddr, pval⟩ := opcodeRows_pattern r hr
  obtain ⟨hknown, hport⟩ := opcodeRows_legalPort r hr
  obtain ⟨eopc, eport⟩ := Prod.mk.inj (opcPort_of_covers hr h)
  have f0 : rsv0Field c &&& rsv0Field r.mask = rsv0Field r.pattern := extractLsb'_of_covers h 11 1
  have f1 : rsv1Field c &&& rsv1Field r.mask = rsv1Field r.pattern := extractLsb'_of_covers h 48 16
  have fbit : bitField c &&& bitField r.mask = bitField r.pattern := extractLsb'_of_covers h 12 4
  have faddr : addrField c &&& addrField r.mask = addrField r.pattern := extractLsb'_of_covers h 16 16
  have fval : valField c &&& valField r.mask = valField r.pattern := extractLsb'_of_covers h 32 16
  rw [m0, BitVec.and_allOnes, p0] at f0
  rw [m1, BitVec.and_allOnes, p1] at f1
  have hbit := opcodeRows_legalBit r hr (bitField c) (fbit.trans pbit)
  have hops := legalOperands_of_masked (opcodeRows_legalOperands r hr) (faddr.trans paddr) (fval.trans pval)
  simp only [legal, eopc, eport, f0, f1, hknown, hport, hbit, hops, beq_self_eq_true, Bool.and_self]

/-- The descriptor of every well-formed command is matched by a row (R120). -/
theorem encodesTableRow : ∀ i, EncodesTableRow.Statement i
  | .nop => EncodesTableRow.nop
  | .wrA8D8 a v => EncodesTableRow.wrA8D8 a v
  | .wrA16D8 a v => EncodesTableRow.wrA16D8 a v
  | .wrA8D16 a v => EncodesTableRow.wrA8D16 a v
  | .wrA16D16 a v => EncodesTableRow.wrA16D16 a v
  | .wrTB a v => EncodesTableRow.wrTB a v
  | .rdA8D8 a => EncodesTableRow.rdA8D8 a
  | .rdA16D8 a => EncodesTableRow.rdA16D8 a
  | .rdA8D16 a => EncodesTableRow.rdA8D16 a
  | .rdA16D16 a => EncodesTableRow.rdA16D16 a
  | .rdTB a => EncodesTableRow.rdTB a
  | .tblA8D8 a v => EncodesTableRow.tblA8D8 a v
  | .tblA16D8 a v => EncodesTableRow.tblA16D8 a v
  | .tblA8D16 a v => EncodesTableRow.tblA8D16 a v
  | .tblA16D16 a v => EncodesTableRow.tblA16D16 a v
  | .setbA8D8 a b => EncodesTableRow.setbA8D8 a b
  | .setbA16D8 a b => EncodesTableRow.setbA16D8 a b
  | .setbA8D16 a b => EncodesTableRow.setbA8D16 a b
  | .setbA16D16 a b => EncodesTableRow.setbA16D16 a b
  | .setbTB a b => EncodesTableRow.setbTB a b
  | .clrbA8D8 a b => EncodesTableRow.clrbA8D8 a b
  | .clrbA16D8 a b => EncodesTableRow.clrbA16D8 a b
  | .clrbA8D16 a b => EncodesTableRow.clrbA8D16 a b
  | .clrbA16D16 a b => EncodesTableRow.clrbA16D16 a b
  | .clrbTB a b => EncodesTableRow.clrbTB a b
  | .getbA8D8 a b => EncodesTableRow.getbA8D8 a b
  | .getbA16D8 a b => EncodesTableRow.getbA16D8 a b
  | .getbA8D16 a b => EncodesTableRow.getbA8D16 a b
  | .getbA16D16 a b => EncodesTableRow.getbA16D16 a b
  | .getbTB a b => EncodesTableRow.getbTB a b
  | .capture => EncodesTableRow.capture
  | .deselect => EncodesTableRow.deselect
  | .nmeaLine a v => EncodesTableRow.nmeaLine a v
  | .nmeaBuf a v => EncodesTableRow.nmeaBuf a v

/-- A legal descriptor is that of a command, and so is matched by a row (R117, R120). -/
theorem covers_of_legal {c : Desc} (h : legal c = true) : ∃ r ∈ opcodeRows, r.covers c = true := by
  obtain ⟨i, hi⟩ := decode_of_legal h
  obtain ⟨hw, rfl⟩ := encode_of_decode hi
  obtain ⟨r, hr, -, hcov⟩ := encodesTableRow i hw
  exact ⟨r, hr, hcov⟩

/-- Settles O3: the matching rows are at most one, and one exactly if the descriptor is legal. -/
theorem legalDescriptorsAreTableRows : Obligations.LegalDescriptorsAreTableRows := by
  intro c
  split_ifs with h
  · obtain ⟨r, hr, hcov⟩ := covers_of_legal h
    exact le_antisymm (length_covering_le_one c) (List.length_pos_of_mem (List.mem_filter.2 ⟨hr, hcov⟩))
  · rw [List.length_eq_zero_iff, List.filter_eq_nil_iff]
    exact fun r hr hcov => h (legal_of_covers hr hcov)

/-! ### Words written out -/

/-- Settles O4: each legal word is the descriptor of its command (R120), and the last two break R114 and R117 item 3. -/
theorem writtenOutWordsDecode : Obligations.WrittenOutWordsDecode :=
  ⟨decode_encode (i := .nop) rfl, decode_encode (i := .wrA16D8 0x3008 0x0080) rfl, decode_encode (i := .rdA16D8 0x300A) rfl,
    decode_encode (i := .tblA16D8 4 100) rfl, decode_encode (i := .setbTB 0x0003 1) rfl, decode_encode (i := .capture) rfl,
    decode_encode (i := .nmeaLine 10 72) rfl, rfl, rfl⟩

/-! ### The write to CMD -/

/-- A write to CMD of an idle block takes the descriptor (R118). -/
theorem hostAct_writeCmd_of_idle {s : State} (h : s.busy = false) (c : Desc) :
    hostAct (.writeReg 0 c) s = takeCommand c s := if_neg (Bool.eq_false_iff.1 h)

/-- Settles O10: a busy block discards the write, an idle one takes the descriptor by its legality. -/
theorem hostCommandIsTakenOrRefused : Obligations.HostCommandIsTakenOrRefused := by
  refine fun c s => ⟨fun hb hl => ?_, fun hb hl => ?_, fun hb => if_pos hb⟩ <;> rw [hostAct_writeCmd_of_idle hb]
  · exact ((takeCommand_cases c s).resolve_right (by simp [hl])).2
  · exact ((takeCommand_cases c s).resolve_left (by simp [hl])).2

end Sys2Proof.Proofs
end

section
/-! PROOFS. The register driver's commands (R142 to R163), one equation for each of their program points. -/

namespace Sys2Proof.Proofs

open Sys2Proof Sys2Proof.Machine Sys2Proof.Safety Sys2Proof.Laws

/-! ### A command at each of its program points -/

/-- With chip-select released no port is blocked (R294). -/
theorem csBlocked_eq_false {p : Port} {s : State} (h : p = .tb → s.csState = .deselected) : csBlocked p s = false := by
  cases p with
  | tb => simp [csBlocked, onTransferBus, h rfl]
  | _ => rfl

section
variable {p : Port} {addr val : Half} {s : State}

theorem wrCmd_start (hp : isInert p = false) (hc : csBlocked p s = false) (hk : s.pcSeq = .start) :
    wrCmd p addr val s = .next (portWrite p addr val s) := by
  simp [wrCmd, wrFirst, hp, hc, hk]

/-- The delay follows the write of A16D8, whatever the write's answer (R142). -/
theorem wrCmd_delay (hd : hasDelay p = true) (hk : s.pcSeq = .delay) :
    wrCmd p addr val s = .next (signal (.delayMs 1) .written s) := by
  simp [wrCmd, hasDelay_not_inert hd, hd, hk]

theorem wrCmd_written_ok (hp : isInert p = false) (hk : s.pcSeq = .written) {v : Half} (ha : s.ans = .ok v) :
    wrCmd p addr val s = .next (finish .ok s) := by
  simp [wrCmd, endWrite, hp, hk, ha]

theorem wrCmd_written_err (hp : isInert p = false) (hk : s.pcSeq = .written) (ha : s.ans = .err) :
    wrCmd p addr val s = .next (raise .busError (writePrim p) 0 s) := by
  simp [wrCmd, endWrite, hp, hk, ha]

theorem rdCmd_start (hp : isInert p = false) (hc : csBlocked p s = false) (hk : s.pcSeq = .start) :
    rdCmd p addr s = .next (ask (readCall p addr) .read s) := by
  simp [rdCmd, rdFirst, hp, hc, hk]

theorem rdCmd_read_ok (hp : isInert p = false) (hk : s.pcSeq = .read) {v : Half} (ha : s.ans = .ok v) :
    rdCmd p addr s = .next (finish .ok { s with result := v, resultWritten := true }) := by
  simp [rdCmd, endRead, hp, hk, ha]

theorem rdCmd_read_err (hp : isInert p = false) (hk : s.pcSeq = .read) (ha : s.ans = .err) :
    rdCmd p addr s = .next (raise .busError (readPrim p) 0 s) := by
  simp [rdCmd, endRead, hp, hk, ha]

theorem tblCmd_start {tbase tlen : Half} (hp : isInert p = false) (hk : s.pcSeq = .start) :
    tblCmd p tbase tlen s = tableEntry p tbase tlen { s with tblCount := 0, ti := 0 } := by
  simp [tblCmd, tableFirst, hp, hk]

theorem tblCmd_delay {tbase tlen : Half} (hd : hasDelay p = true) (hk : s.pcSeq = .delay) :
    tblCmd p tbase tlen s = .next (signal (.delayMs 1) .written s) := by
  simp [tblCmd, hasDelay_not_inert hd, hd, hk]

theorem tblCmd_written_ok {tbase tlen : Half} (hp : isInert p = false) (hk : s.pcSeq = .written) {v : Half}
    (ha : s.ans = .ok v) : tblCmd p tbase tlen s = tableEntry p tbase tlen { s with ti := s.ti + 1 } := by
  simp [tblCmd, tableNext, hp, hk, ha]

theorem tblCmd_written_err {tbase tlen : Half} (hp : isInert p = false) (hk : s.pcSeq = .written) (ha : s.ans = .err) :
    tblCmd p tbase tlen s = .next (raise .busError .cbWrite s.ti s) := by
  simp [tblCmd, tableNext, hp, hk, ha]

section
variable {modify : Half → Half}

theorem modifyCmd_start (hp : isInert p = false) (hc : csBlocked p s = false) (hk : s.pcSeq = .start) :
    modifyCmd p addr modify s = .next (ask (readCall p addr) .read s) := by
  simp [modifyCmd, rdFirst, hp, hc, hk]

theorem modifyCmd_read_ok (hp : isInert p = false) (hk : s.pcSeq = .read) {v : Half} (ha : s.ans = .ok v) :
    modifyCmd p addr modify s = .next (portWrite p addr (modify v) { s with rmwV := v }) := by
  simp [modifyCmd, endModify, hp, hk, ha]

theorem modifyCmd_read_err (hp : isInert p = false) (hk : s.pcSeq = .read) (ha : s.ans = .err) :
    modifyCmd p addr modify s = .next (raise .busError (readPrim p) 0 s) := by
  simp [modifyCmd, endModify, hp, hk, ha]

theorem modifyCmd_delay (hd : hasDelay p = true) (hk : s.pcSeq = .delay) :
    modifyCmd p addr modify s = .next (signal (.delayMs 1) .written s) := by
  simp [modifyCmd, hasDelay_not_inert hd, hd, hk]

theorem modifyCmd_written_ok (hp : isInert p = false) (hk : s.pcSeq = .written) {v : Half} (ha : s.ans = .ok v) :
    modifyCmd p addr modify s = .next (finish .ok s) := by
  simp [modifyCmd, endWrite, hp, hk, ha]

theorem modifyCmd_written_err (hp : isInert p = false) (hk : s.pcSeq = .written) (ha : s.ans = .err) :
    modifyCmd p addr modify s = .next (raise .busError (writePrim p) 0 s) := by
  simp [modifyCmd, endWrite, hp, hk, ha]

end

section
variable {bit : BitVec 4}

theorem getBitCmd_start (hp : isInert p = false) (hc : csBlocked p s = false) (hk : s.pcSeq = .start) :
    getBitCmd p addr bit s = .next (ask (readCall p addr) .read s) := by
  simp [getBitCmd, rdFirst, hp, hc, hk]

theorem getBitCmd_read_ok (hp : isInert p = false) (hk : s.pcSeq = .read) {v : Half} (ha : s.ans = .ok v) :
    getBitCmd p addr bit s = .next (finish .ok { s with result := bitOf v bit, resultWritten := true, rmwV := v }) := by
  simp [getBitCmd, endGetBit, hp, hk, ha]

theorem getBitCmd_read_err (hp : isInert p = false) (hk : s.pcSeq = .read) (ha : s.ans = .err) :
    getBitCmd p addr bit s = .next (raise .busError (readPrim p) 0 s) := by
  simp [getBitCmd, endGetBit, hp, hk, ha]

end

end

/-- Every command that writes through A16D8 issues the delay at its program point `delay` (R142). -/
theorem exec_delay {i : Instr} {s : State} (hw : writesWide i = true) (hk : s.pcSeq = .delay) :
    exec i s = .next (signal (.delayMs 1) .written s) := by
  cases i with
  | wrA16D8 => exact wrCmd_delay (p := .a16d8) rfl hk
  | tblA16D8 => exact tblCmd_delay (p := .a16d8) rfl hk
  | setbA16D8 | clrbA16D8 => exact modifyCmd_delay (p := .a16d8) rfl hk
  | _ => cases hw

end Sys2Proof.Proofs
end

section
/-! PROOFS. The delay discipline (R142, R324): a 16-bit-address write leaves its command before the delay, and the delay is what
the command issues next. -/

namespace Sys2Proof.Proofs

open Sys2Proof Sys2Proof.Machine Sys2Proof.Safety Sys2Proof.Laws

/-! ### The last event -/

theorem delayView_append (h : List Event) (e : Event) : delayView (h ++ [e]) = (delayView h).next e := by
  simp [delayView]

/-- The last event is no 16-bit-address write. -/
def OwesNoDelay (s : State) : Prop := (delayView s.hist).owed = false

/-- If the last event is a 16-bit-address write, the command that writes through `p` stands before its delay (R142). -/
def OwesAtDelay (p : Port) (t : State) : Prop := (delayView t.hist).owed = true → hasDelay p = true ∧ t.pcSeq = .delay

/-- A step without an event owes no delay if none was owed. -/
theorem OwesNoDelay.of_hist {s t : State} (hs : OwesNoDelay s) (h : t.hist = s.hist) : OwesNoDelay t := by
  rwa [OwesNoDelay, h]

theorem OwesNoDelay.atDelay {p : Port} {t : State} (h : OwesNoDelay t) : OwesAtDelay p t := fun howed =>
  absurd howed (Bool.eq_false_iff.1 h)

theorem owesNoDelay_ask {p : Prim} (h : isWideWrite p = false) (k : Point) (s : State) : OwesNoDelay (ask p k s) := by
  rw [OwesNoDelay, ask_hist, delayView_append]
  exact h

theorem owesNoDelay_signal {p : Prim} (h : isWideWrite p = false) (k : Point) (s : State) :
    OwesNoDelay (signal p k s) := by
  rw [OwesNoDelay, signal_hist, delayView_append]
  exact h

/-! ### The register driver -/

theorem isWideWrite_readCall (p : Port) (addr : Half) : isWideWrite (readCall p addr) = false := by
  cases p <;> rfl

/-- On an active port without a delay the write is no 16-bit-address write (R112, R142). -/
theorem isWideWrite_writeCall {p : Port} (hp : isInert p = false) (hd : hasDelay p = false) (addr val : Half) :
    isWideWrite (writeCall p addr val) = false := by
  cases p with
  | a8d8 | tb => rfl
  | a16d8 => cases hd
  | a8d16 | a16d16 => cases hp

theorem portWrite_owesAtDelay {p : Port} (hp : isInert p = false) (addr val : Half) (s : State) :
    OwesAtDelay p (portWrite p addr val s) := by
  cases hd : hasDelay p with
  | true => exact fun _ => ⟨hd, by rw [portWrite, hd]; rfl⟩
  | false =>
    rw [portWrite, hd]
    exact (owesNoDelay_ask (isWideWrite_writeCall hp hd addr val) .written s).atDelay

section
variable {p : Port} {s t : State} (hs : OwesNoDelay s)
include hs

theorem wrCmd_owesAtDelay {addr val : Half} (h : wrCmd p addr val s = .next t) : OwesAtDelay p t := by
  have ends {t : State} (h : t.hist = s.hist) : OwesAtDelay p t := (hs.of_hist h).atDelay
  rcases wrCmd_cases p addr val s with ⟨_, h'⟩ | ⟨_, _, _, _, h'⟩ | ⟨hp, _, _, _, h'⟩ | ⟨_, _, h'⟩ | ⟨_, _, _, h'⟩ |
    ⟨_, _, _, h'⟩ <;> rw [h'] at h <;> cases h
  exacts [ends rfl, ends rfl, portWrite_owesAtDelay hp _ _ _, (owesNoDelay_signal rfl ..).atDelay, ends rfl, ends rfl]

theorem rdCmd_owesNoDelay {addr : Half} (h : rdCmd p addr s = .next t) : OwesNoDelay t := by
  rcases rdCmd_cases p addr s with ⟨_, h'⟩ | ⟨_, _, _, h'⟩ | ⟨_, _, _, h'⟩ | ⟨_, _, _, h'⟩ | ⟨v, _, _, _, h'⟩
    <;> rw [h'] at h <;> cases h
  exacts [hs, hs, owesNoDelay_ask (isWideWrite_readCall p addr) .., hs, hs]

theorem getBitCmd_owesNoDelay {addr : Half} {bit : BitVec 4} (h : getBitCmd p addr bit s = .next t) :
    OwesNoDelay t := by
  rcases getBitCmd_cases p addr bit s with ⟨_, h'⟩ | ⟨_, _, _, h'⟩ | ⟨_, _, _, h'⟩ | ⟨_, _, _, h'⟩ | ⟨v, _, _, _, h'⟩
    <;> rw [h'] at h <;> cases h
  exacts [hs, hs, owesNoDelay_ask (isWideWrite_readCall p addr) .., hs, hs]

theorem tableEntry_owesAtDelay {tbase tlen : Half} (hp : isInert p = false) (h : tableEntry p tbase tlen s = .next t) :
    OwesAtDelay p t := by
  have ends {t : State} (h : t.hist = s.hist) : OwesAtDelay p t := (hs.of_hist h).atDelay
  rcases tableEntry_cases p tbase tlen s with ⟨_, h'⟩ | ⟨_, _, _, h'⟩ | ⟨e, _, _, _, _, h'⟩ | ⟨e, _, _, _, _, h'⟩
    <;> rw [h'] at h <;> cases h
  exacts [ends rfl, ends rfl, portWrite_owesAtDelay hp _ _ _]

theorem tblCmd_owesAtDelay {tbase tlen : Half} (h : tblCmd p tbase tlen s = .next t) : OwesAtDelay p t := by
  have ends {t : State} (h : t.hist = s.hist) : OwesAtDelay p t := (hs.of_hist h).atDelay
  rcases tblCmd_cases p tbase tlen s with ⟨_, h'⟩ | ⟨_, _, h'⟩ | ⟨_, _, _, h'⟩ | ⟨hp, _, _, h'⟩ | ⟨hp, _, _, h'⟩
    <;> rw [h'] at h
  · cases h; exact ends rfl
  · cases h; exact (owesNoDelay_signal rfl ..).atDelay
  · cases h; exact ends rfl
  · exact tableEntry_owesAtDelay (s := { s with ti := s.ti + 1 }) hs hp h
  · exact tableEntry_owesAtDelay (s := { s with tblCount := 0, ti := 0 }) hs hp h

theorem modifyCmd_owesAtDelay {addr : Half} {modify : Half → Half} (h : modifyCmd p addr modify s = .next t) :
    OwesAtDelay p t := by
  have ends {t : State} (h : t.hist = s.hist) : OwesAtDelay p t := (hs.of_hist h).atDelay
  rcases modifyCmd_cases p addr modify s with ⟨_, h'⟩ | ⟨_, _, _, _, _, h'⟩ | ⟨_, _, _, _, _, h'⟩ | ⟨_, _, _, h'⟩ |
    ⟨v, hp, _, _, h'⟩ | ⟨_, _, h'⟩ | ⟨_, _, _, h'⟩ | ⟨_, _, _, h'⟩ <;> rw [h'] at h <;> cases h
  exacts [ends rfl, ends rfl, (owesNoDelay_ask (isWideWrite_readCall p addr) ..).atDelay, ends rfl,
    portWrite_owesAtDelay hp _ _ _, (owesNoDelay_signal rfl ..).atDelay, ends rfl, ends rfl]

end

/-! ### The capture engine writes nothing to the control bus -/

theorem streamNext_owesNoDelay (s : State) : OwesNoDelay (streamNext s) := by
  rcases streamNext_cases s with ⟨-, h⟩ | ⟨-, h⟩ <;> rw [h]
  exacts [owesNoDelay_signal rfl .., owesNoDelay_ask rfl ..]

theorem flush_owesNoDelay (n : Nat) (k : Point) (s : State) : Allows OwesNoDelay (flush n k s) :=
  flush_allows fun bytes => owesNoDelay_ask (p := .sinkWrite bytes) rfl k s

theorem store_owesNoDelay {site : StoreSite} {next : State → StepResult} (s : State)
    (hnext : ∀ u, Allows OwesNoDelay (next u)) : Allows OwesNoDelay (store site next s) :=
  store_allows (owesNoDelay_signal rfl ..) fun u _ => hnext u

theorem afterData_owesNoDelay (s : State) : Allows OwesNoDelay (afterData s) := by
  rcases afterData_cases s with ⟨-, -, h⟩ | ⟨-, h⟩ <;> rw [h]
  exacts [flush_owesNoDelay .., streamNext_owesNoDelay s]

theorem afterStore_owesNoDelay (site : StoreSite) (s : State) : Allows OwesNoDelay (afterStore site s) := by
  cases site with
  | startFF => exact store_owesNoDelay s streamNext_owesNoDelay
  | startD8 => exact streamNext_owesNoDelay s
  | data => exact afterData_owesNoDelay s

theorem examineWindow_owesNoDelay (s : State) : Allows OwesNoDelay (examineWindow s) := by
  rcases examineWindow_cases s with ⟨-, h⟩ | ⟨-, -, -, h⟩ | ⟨-, -, h⟩ <;> rw [h]
  · exact store_owesNoDelay s afterData_owesNoDelay
  · exact store_owesNoDelay _ fun u => store_owesNoDelay u streamNext_owesNoDelay
  · exact streamNext_owesNoDelay s

section
variable {s : State} (hs : OwesNoDelay s)
include hs

/-- An error of the capture issues no primitive (R205). -/
theorem captureFail_owesNoDelay {u : State} (hu : u.hist = s.hist) (e : ErrCode) (prim : PrimCode) :
    OwesNoDelay (captureFail e prim u) :=
  hs.of_hist hu

theorem pollAgain_owesNoDelay {u : State} (hu : u.hist = s.hist) : OwesNoDelay (pollAgain u) := by
  rcases pollAgain_cases u with ⟨-, h⟩ | ⟨-, -, h⟩ | ⟨-, -, h⟩ <;> rw [h]
  exacts [captureFail_owesNoDelay hs hu _ _, captureFail_owesNoDelay hs hu _ _, owesNoDelay_ask rfl ..]

theorem openBurst_owesNoDelay {u : State} (hu : u.hist = s.hist) : OwesNoDelay (openBurst u) := by
  rcases openBurst_cases u with ⟨-, h⟩ | ⟨-, -, h⟩ | ⟨-, -, h⟩ <;> rw [h]
  exacts [captureFail_owesNoDelay hs hu _ _, captureFail_owesNoDelay hs hu _ _, owesNoDelay_signal rfl ..]

theorem afterPull_owesNoDelay : Allows OwesNoDelay (afterPull s) := by
  unfold afterPull
  split
  exacts [hs, examineWindow_owesNoDelay _]

theorem afterRotBurst_owesNoDelay (site : StoreSite) : Allows OwesNoDelay (afterRotBurst site s) := by
  unfold afterRotBurst
  split
  · exact hs
  · rcases putByte_cases (storeByte site s) s with ⟨-, h⟩ | ⟨-, h⟩ <;> rw [h]
    exacts [trivial, afterStore_owesNoDelay site _]

theorem execCapture_owesNoDelay : Allows OwesNoDelay (execCapture s) := by
  unfold execCapture
  split
  case h_1 => unfold afterArmClear; split; exacts [hs, owesNoDelay_ask rfl ..]
  case h_2 => unfold afterArmStart; split; exacts [hs, pollAgain_owesNoDelay hs rfl]
  case h_3 =>
    unfold afterPoll; split
    · exact hs
    · split
      exacts [owesNoDelay_ask rfl .., pollAgain_owesNoDelay hs rfl]
  case h_4 => unfold afterSize1; split; exacts [hs, owesNoDelay_ask rfl ..]
  case h_5 => unfold afterSize2; split; exacts [hs, owesNoDelay_ask rfl ..]
  case h_6 => unfold afterSize3; split; exacts [hs, openBurst_owesNoDelay hs rfl]
  case h_7 => exact owesNoDelay_ask rfl ..
  case h_8 => unfold afterBurstOpen; split; exacts [hs, streamNext_owesNoDelay s]
  case h_9 => exact afterPull_owesNoDelay hs
  case h_10 => exact flush_owesNoDelay ..
  case h_11 => unfold afterRotFlush; split; exacts [hs, owesNoDelay_signal rfl ..]
  case h_12 => exact owesNoDelay_ask rfl ..
  case h_13 => exact afterRotBurst_owesNoDelay hs _
  case h_14 => unfold afterEofFlush; split; exacts [hs, owesNoDelay_signal rfl ..]
  case h_15 | h_16 => exact hs
  case h_17 => unfold captureFirst; split; exacts [hs, owesNoDelay_ask rfl ..]

end

/-! ### Every command -/

theorem execDeselect_owesNoDelay {s t : State} (hs : OwesNoDelay s) (h : execDeselect s = .next t) : OwesNoDelay t := by
  rcases execDeselect_cases s with ⟨-, h'⟩ | ⟨-, h'⟩ <;> rw [h'] at h <;> cases h
  exacts [hs, owesNoDelay_signal rfl ..]

theorem OwesNoDelay.of_decoderOnly {s u : State} (hs : OwesNoDelay s) (h : DecoderOnly s u) : OwesNoDelay u := by
  unfold DecoderOnly at h
  rw [h]
  exact hs

/-- Where no delay is owed, a step issues a 16-bit-address write only for a command that writes through A16D8, and leaves it
before its delay (R142). -/
theorem exec_wideWrite {i : Instr} {s t : State} (hs : OwesNoDelay s) (h : exec i s = .next t)
    (howed : (delayView t.hist).owed = true) : writesWide i = true ∧ t.pcSeq = .delay := by
  have silent (ht : OwesNoDelay t) : writesWide i = true ∧ t.pcSeq = .delay := absurd howed (Bool.eq_false_iff.1 ht)
  have wide {p : Port} (ht : OwesAtDelay p t) (hw : hasDelay p = writesWide i) : writesWide i = true ∧ t.pcSeq = .delay :=
    hw ▸ ht howed
  cases i with
  | nop => cases h; exact silent hs
  | wrA8D8 | wrA16D8 | wrA8D16 | wrA16D16 | wrTB =>
    simp only [exec] at h
    exact wide (wrCmd_owesAtDelay hs h) rfl
  | rdA8D8 | rdA16D8 | rdA8D16 | rdA16D16 | rdTB =>
    simp only [exec] at h
    exact silent (rdCmd_owesNoDelay hs h)
  | tblA8D8 | tblA16D8 | tblA8D16 | tblA16D16 =>
    simp only [exec] at h
    exact wide (tblCmd_owesAtDelay hs h) rfl
  | setbA8D8 | setbA16D8 | setbA8D16 | setbA16D16 | setbTB
  | clrbA8D8 | clrbA16D8 | clrbA8D16 | clrbA16D16 | clrbTB =>
    simp only [exec] at h
    exact wide (modifyCmd_owesAtDelay hs h) rfl
  | getbA8D8 | getbA16D8 | getbA8D16 | getbA16D16 | getbTB =>
    simp only [exec] at h
    exact silent (getBitCmd_owesNoDelay hs h)
  | capture => exact silent ((execCapture_owesNoDelay hs).of_next h)
  | deselect =>
    simp only [exec] at h
    exact silent (execDeselect_owesNoDelay hs h)
  | nmeaLine =>
    rcases nmeaLine_shape h with rfl | ⟨u, e, hu, rfl⟩
    exacts [silent hs, silent ((hs.of_decoderOnly hu).of_hist rfl)]
  | nmeaBuf =>
    rcases nmeaBuf_shape h with rfl | ⟨u, hu, rfl⟩
    exacts [silent hs, silent ((hs.of_decoderOnly hu).of_hist rfl)]

/-! ### The discipline at every step -/

/-- Where no delay is owed the discipline is that of the history so far. -/
theorem delayInv_of_owesNoDelay {s : State} (hs : OwesNoDelay s) (hlaw : (delayView s.hist).lawful = true) : DelayInv s :=
  ⟨hlaw, fun h => absurd h (Bool.eq_false_iff.1 hs)⟩

section
variable {s t : State} (hs : DelayInv s)
include hs

/-- A command that stands before its delay issues it, and so keeps the discipline (R142, R324). -/
theorem exec_delayInv_of_owed {i : Instr} (hd : decode s.curCmd = .ok i) (howed : (delayView s.hist).owed = true)
    (h : exec i s = .next t) : DelayInv t := by
  obtain ⟨hlaw, hat⟩ := hs
  obtain ⟨-, hk, j, hj, hw⟩ := hat howed
  obtain rfl : i = j := Except.ok.inj (hd.symm.trans hj)
  rw [exec_delay hw hk] at h
  cases h
  refine delayInv_of_owesNoDelay (owesNoDelay_signal rfl ..) ?_
  simp [delayView_append, DelayView.next, hlaw]

/-- Where no delay is owed a step of a command adds at most one event, and no delay was missing before it. -/
theorem exec_delayInv_of_not_owed {i : Instr} (hb : s.busy = true) (hd : decode s.curCmd = .ok i)
    (hno : OwesNoDelay s) (h : exec i s = .next t) : DelayInv t := by
  obtain ⟨hlaw, -⟩ := hs
  rcases onePrimitivePerStep i s t h with ⟨hhist, -, -⟩ | ⟨e, hhist, hbt, -, -⟩
  · unfold OwesNoDelay at hno
    rw [← hhist] at hlaw hno
    exact delayInv_of_owesNoDelay hno hlaw
  · refine ⟨?_, fun howed => ?_⟩
    · unfold OwesNoDelay at hno
      rw [hhist, delayView_append, DelayView.next, hlaw, hno]
      rfl
    · obtain ⟨hw, hk⟩ := exec_wideWrite hno h howed
      refine ⟨hbt.trans hb, hk, i, ?_, hw⟩
      rw [currentCommand, (exec_hostSideKept h).curCmd, hd]

theorem exec_delayInv {i : Instr} (hb : s.busy = true) (hd : decode s.curCmd = .ok i) (h : exec i s = .next t) :
    DelayInv t := by
  cases howed : (delayView s.hist).owed with
  | true => exact exec_delayInv_of_owed hs hd howed h
  | false => exact exec_delayInv_of_not_owed hs hb hd howed h

/-- While the block is idle no delay is owed (R142). -/
theorem DelayInv.owesNoDelay_of_idle (hb : s.busy = false) : OwesNoDelay s := by
  refine Bool.eq_false_of_not_eq_true fun howed => ?_
  obtain ⟨hbusy, -⟩ := hs.2 howed
  rw [hb] at hbusy
  cases hbusy

/-- A host action but a reset issues no primitive, and takes a new command only while no delay is owed. -/
theorem HostEffect.delayInv {a : HostAction} (h : HostEffect a s t) (hr : a ≠ .reset) : DelayInv t := by
  cases h with
  | discarded | control | memory | ignored | read => exact hs
  | command idle c =>
    have hhist : (takeCommand c s).hist = s.hist := by rcases takeCommand_cases c s with ⟨-, hc⟩ | ⟨-, hc⟩ <;> rw [hc]
    refine delayInv_of_owesNoDelay ?_ ?_
    · rw [OwesNoDelay, hhist]
      exact DelayInv.owesNoDelay_of_idle hs idle
    · rw [hhist, hs.1]
  | reset act => exact absurd act hr

end

/-- Settles O59, by what a step can do. The turn taken off the schedule is no part of the discipline. -/
theorem delayDisciplineKept : Obligations.DelayDisciplineKept := by
  intro s t hs hr h
  have hs' : DelayInv (turnTaken s) := hs
  cases step_effect h with
  | host a turn effect =>
    refine effect.delayInv hs' fun ha => ?_
    rw [resetNext, turn, ha] at hr
    cases hr
  | idle _ next => exact next ▸ hs'
  | command busy i dec run => exact exec_delayInv hs' busy dec run

end Sys2Proof.Proofs
end

section
/-! PROOFS. The single steps of the register driver's commands (R141 to R166): what the bit operations do to each bit, what an
access through an active port issues, and the steps of each family. -/

namespace Sys2Proof.Proofs

open Sys2Proof Sys2Proof.Machine Sys2Proof.Safety Sys2Proof.Laws

/-! ### Bits (R160, R166) -/

theorem oneBit_getLsbD (b : BitVec 4) {k : Nat} (hk : k < 16) : (oneBit b).getLsbD k = (k == b.toNat) := by
  have := b.isLt
  rw [oneBit, ← BitVec.twoPow_eq, BitVec.getLsbD_twoPow, Bool.eq_iff_iff]
  simp
  omega

theorem withBitSet_getLsbD (v : Half) (b : BitVec 4) {k : Nat} (hk : k < 16) :
    (withBitSet v b).getLsbD k = (v.getLsbD k || (k == b.toNat)) := by
  rw [withBitSet, BitVec.getLsbD_or, oneBit_getLsbD b hk]

theorem withBitClear_getLsbD (p : Port) (v : Half) (b : BitVec 4) {k : Nat} (hk : k < 16) :
    (withBitClear p v b).getLsbD k = (v.getLsbD k && (k != b.toNat) && (dataMask p).getLsbD k) := by
  simp only [withBitClear, BitVec.getLsbD_and, BitVec.getLsbD_not, oneBit_getLsbD b hk, hk, decide_true, Bool.true_and,
    bne]

theorem bitOf_eq (v : Half) (b : BitVec 4) : bitOf v b = if v.getLsbD b.toNat then 1 else 0 := by
  rw [bitOf, show (1 : Half) = 1#16 from rfl, BitVec.and_one_eq_setWidth_ofBool_getLsbD, BitVec.getLsbD_ushiftRight,
    Nat.add_zero]
  cases v.getLsbD b.toNat <;> rfl

/-- Settles O30, bit by bit; a bit that neither operand has above the data width their union has not. -/
theorem bitOperationsTouchOneBit : Obligations.BitOperationsTouchOneBit := by
  intro v bit p k hk
  refine ⟨withBitSet_getLsbD v bit hk, withBitClear_getLsbD p v bit hk, bitOf_eq v bit, fun hv hb => ?_⟩
  rw [withBitSet, BitVec.and_or_distrib_right, hv, hb, BitVec.or_self]

/-! ### Accesses through an active port (R112, R141 to R143) -/

/-- The data width of every active port is 8 (R112). -/
theorem dataWidth_of_active {p : Port} (hp : isInert p = false) : dataWidth p = .w8 := by
  cases p with
  | a8d16 | a16d16 => cases hp
  | _ => rfl

theorem dataMask_of_active {p : Port} (hp : isInert p = false) : dataMask p = 0x00FF := by
  rw [dataMask, dataWidth_of_active hp]
  rfl

/-- A 16-bit address port masks no address bit away (R141). -/
theorem and_addrMask_wide (addr : Half) : addr &&& addrMask .a16d8 = addr := BitVec.and_allOnes

theorem readCall_of_active {p : Port} (hp : isInert p = false) (addr : Half) :
    readCall p addr =
      if p = .tb then .tbRead (addr.setWidth 8) else .cbRead (addrWidth p) .w8 (addr &&& addrMask p) := by
  cases p with
  | a8d16 | a16d16 => cases hp
  | _ => rfl

theorem writeCall_of_active {p : Port} (hp : isInert p = false) (addr val : Half) :
    writeCall p addr val =
      if p = .tb then .tbWrite (addr.setWidth 8) (val.setWidth 8)
      else .cbWrite (addrWidth p) .w8 (addr &&& addrMask p) (val &&& 0x00FF) := by
  cases p with
  | a8d16 | a16d16 => cases hp
  | _ => rfl

theorem readCall_a16d8 (addr : Half) : readCall .a16d8 addr = .cbRead .w16 .w8 addr :=
  congrArg (Prim.cbRead .w16 .w8) (and_addrMask_wide addr)

theorem writeCall_a16d8 (addr val : Half) : writeCall .a16d8 addr val = .cbWrite .w16 .w8 addr (val &&& 0x00FF) :=
  congrArg (Prim.cbWrite .w16 .w8 · (val &&& 0x00FF)) (and_addrMask_wide addr)

/-- A write masks its value to the data width, so that masking it before changes nothing (R141). -/
theorem writeCall_and_dataMask {p : Port} (hp : isInert p = false) (addr val : Half) :
    writeCall p addr (val &&& dataMask p) = writeCall p addr val := by
  have hlow : (0x00FF : Half).setWidth 8 = BitVec.allOnes 8 := rfl
  rw [dataMask_of_active hp, writeCall_of_active hp, writeCall_of_active hp, BitVec.and_assoc, BitVec.and_self,
    BitVec.setWidth_and, hlow, BitVec.and_allOnes]

theorem readPrim_eq (p : Port) : readPrim p = if p = .tb then .tbRead else .cbRead := by
  cases p <;> rfl

theorem writePrim_eq (p : Port) : writePrim p = if p = .tb then .tbWrite else .cbWrite := by
  cases p <;> rfl

/-- A write stands before its delay on A16D8 only (R142). -/
theorem portWrite_eq (p : Port) (addr val : Half) (s : State) :
    portWrite p addr val s = ask (writeCall p addr val) (if p = .a16d8 then .delay else .written) s := by
  cases p <;> rfl

/-! ### NOP and the inert ports -/

section
variable {p : Port} (hp : isInert p = true) (addr val : Half) (bit : BitVec 4) (s : State)
include hp

theorem wrCmd_inert : wrCmd p addr val s = .next (finish .ok s) := if_pos hp

theorem rdCmd_inert : rdCmd p addr s =
    .next (finish .ok { s with result := draw s, resultWritten := true, draws := s.draws + 1 }) := if_pos hp

theorem tblCmd_inert : tblCmd p addr val s = .next (finish .ok { s with tblCount := 0 }) := if_pos hp

theorem modifyCmd_inert (modify : Half → Half) : modifyCmd p addr modify s =
    .next (finish .ok { s with rmwV := draw s, draws := s.draws + 1 }) := if_pos hp

theorem getBitCmd_inert : getBitCmd p addr bit s = .next (finish .ok { s with
    result := if (draw s).getLsbD bit.toNat then 1 else 0, resultWritten := true, rmwV := draw s,
    draws := s.draws + 1 }) := by
  rw [← bitOf_eq]
  exact if_pos hp

end

/-- Settles O19, family by family. -/
theorem inertPortsIssueNothing : Obligations.InertPortsIssueNothing := by
  intro addr val bit s ended drawn
  exact ⟨rfl, rfl, rfl, rfl, wrCmd_inert (p := .a8d16) rfl addr val s, wrCmd_inert (p := .a16d16) rfl addr val s,
    tblCmd_inert (p := .a8d16) rfl addr val s, tblCmd_inert (p := .a16d16) rfl addr val s,
    rdCmd_inert (p := .a8d16) rfl addr s, rdCmd_inert (p := .a16d16) rfl addr s,
    modifyCmd_inert (p := .a8d16) rfl addr s fun v => withBitSet v bit,
    modifyCmd_inert (p := .a16d16) rfl addr s fun v => withBitSet v bit,
    modifyCmd_inert (p := .a8d16) rfl addr s fun v => withBitClear .a8d16 v bit,
    modifyCmd_inert (p := .a16d16) rfl addr s fun v => withBitClear .a16d16 v bit,
    getBitCmd_inert (p := .a8d16) rfl addr bit s, getBitCmd_inert (p := .a16d16) rfl addr bit s⟩

/-! ### WR and RD -/

/-- The commands of `WR` on an active port are `wrCmd` on that port (R145, R146, R149). -/
theorem activeWr_family {addr val : Half} {x : Instr × PrimCode}
    (hx : x ∈ [(Instr.wrA8D8 addr val, PrimCode.cbWrite), (.wrA16D8 addr val, .cbWrite), (.wrTB addr val, .tbWrite)]) :
    ∃ p, isInert p = false ∧ x.2 = writePrim p ∧ ∀ s, exec x.1 s = wrCmd p addr val s := by
  simp only [List.mem_cons, List.not_mem_nil, or_false] at hx
  rcases hx with rfl | rfl | rfl
  exacts [⟨.a8d8, rfl, rfl, fun _ => rfl⟩, ⟨.a16d8, rfl, rfl, fun _ => rfl⟩, ⟨.tb, rfl, rfl, fun _ => rfl⟩]

/-- Settles O20, point by point. -/
theorem writeSteps : Obligations.WriteSteps := by
  intro addr val s narrow wide transfer
  have wideCall : writeCall .a16d8 addr val = wide := writeCall_a16d8 addr val
  refine ⟨fun hk => ⟨?_, ?_, fun hcs => ?_⟩, fun hk => exec_delay rfl hk, fun hk x hx => ?_⟩
  · exact wrCmd_start (p := .a8d8) rfl rfl hk
  · rw [← wideCall]
    exact wrCmd_start (p := .a16d8) rfl rfl hk
  · exact wrCmd_start (p := .tb) rfl (csBlocked_eq_false fun _ => hcs) hk
  · obtain ⟨p, hp, hprim, hf⟩ := activeWr_family hx
    rw [hprim, hf]
    exact ⟨wrCmd_written_err hp hk, fun v ha => wrCmd_written_ok hp hk ha⟩

/-- Settles O22, point by point. -/
theorem readSteps : Obligations.ReadSteps := by
  intro addr s narrow wide transfer
  have wideCall : readCall .a16d8 addr = wide := readCall_a16d8 addr
  refine ⟨fun hk => ⟨?_, ?_, fun hcs => ?_⟩, fun hk ha => ⟨?_, ?_⟩, fun v hk ha => ?_⟩
  · exact rdCmd_start (p := .a8d8) rfl rfl hk
  · rw [← wideCall]
    exact rdCmd_start (p := .a16d8) rfl rfl hk
  · exact rdCmd_start (p := .tb) rfl (csBlocked_eq_false fun _ => hcs) hk
  · exact List.forall_mem_cons.2 ⟨rdCmd_read_err (p := .a8d8) rfl hk ha,
      List.forall_mem_singleton.2 (rdCmd_read_err (p := .a16d8) rfl hk ha)⟩
  · exact rdCmd_read_err (p := .tb) rfl hk ha
  · exact List.forall_mem_cons.2 ⟨rdCmd_read_ok (p := .a8d8) rfl hk ha,
      List.forall_mem_cons.2 ⟨rdCmd_read_ok (p := .a16d8) rfl hk ha,
        List.forall_mem_singleton.2 (rdCmd_read_ok (p := .tb) rfl hk ha)⟩⟩

/-! ### SETB, CLRB and GETB -/

/-- SETB and CLRB on an active port are `modifyCmd` on that port. CLRB masks its value before the write does (R160 to R162). -/
theorem activeModify_family {addr : Half} {bit : BitVec 4} {p : Port} {i : Instr} {modify : Half → Half}
    (h : (p, i) ∈ [(Port.a8d8, Instr.setbA8D8 addr bit), (.a16d8, .setbA16D8 addr bit), (.tb, .setbTB addr bit)] ∧
        modify = (fun v => v ||| 1#16 <<< bit.toNat) ∨
      (p, i) ∈ [(Port.a8d8, Instr.clrbA8D8 addr bit), (.a16d8, .clrbA16D8 addr bit), (.tb, .clrbTB addr bit)] ∧
        modify = (fun v => v &&& ~~~(1#16 <<< bit.toNat))) :
    isInert p = false ∧ ∃ m, (∀ s, exec i s = modifyCmd p addr m s) ∧
      ∀ v, writeCall p addr (m v) = writeCall p addr (modify v) := by
  simp only [List.mem_cons, List.not_mem_nil, or_false, Prod.mk.injEq] at h
  rcases h with ⟨⟨rfl, rfl⟩ | ⟨rfl, rfl⟩ | ⟨rfl, rfl⟩, rfl⟩ | ⟨⟨rfl, rfl⟩ | ⟨rfl, rfl⟩ | ⟨rfl, rfl⟩, rfl⟩
  · exact ⟨rfl, fun v => withBitSet v bit, fun _ => rfl, fun _ => rfl⟩
  · exact ⟨rfl, fun v => withBitSet v bit, fun _ => rfl, fun _ => rfl⟩
  · exact ⟨rfl, fun v => withBitSet v bit, fun _ => rfl, fun _ => rfl⟩
  · exact ⟨rfl, fun v => withBitClear .a8d8 v bit, fun _ => rfl, fun _ => writeCall_and_dataMask rfl addr _⟩
  · exact ⟨rfl, fun v => withBitClear .a16d8 v bit, fun _ => rfl, fun _ => writeCall_and_dataMask rfl addr _⟩
  · exact ⟨rfl, fun v => withBitClear .tb v bit, fun _ => rfl, fun _ => writeCall_and_dataMask rfl addr _⟩

/-- Settles O27, point by point. -/
theorem setAndClearBitSteps : Obligations.SetAndClearBitSteps := by
  intro addr bit s p i modify hi readIt writeIt
  obtain ⟨hp, m, hf, hcall⟩ := activeModify_family hi
  have hread : readCall p addr = readIt := readCall_of_active hp addr
  have hwrite (v : Half) : writeCall p addr (m v) = writeIt v := (hcall v).trans (writeCall_of_active hp addr _)
  rw [hf, ← readPrim_eq, ← writePrim_eq]
  refine ⟨fun hk hcs => ?_, fun v hk ha => ?_, fun hk ha => modifyCmd_read_err hp hk ha, fun hk hpd => ?_,
    fun v hk ha => modifyCmd_written_ok hp hk ha, fun hk ha => modifyCmd_written_err hp hk ha⟩
  · rw [← hread]
    exact modifyCmd_start hp (csBlocked_eq_false hcs) hk
  · rw [modifyCmd_read_ok hp hk ha, portWrite_eq, hwrite]
    rfl
  · subst hpd
    exact modifyCmd_delay rfl hk

/-- Settles O28, point by point. -/
theorem getBitSteps : Obligations.GetBitSteps := by
  intro addr bit s p i hi readIt
  obtain ⟨hp, hf⟩ : isInert p = false ∧ ∀ s, exec i s = getBitCmd p addr bit s := by
    simp only [List.mem_cons, List.not_mem_nil, or_false, Prod.mk.injEq] at hi
    rcases hi with ⟨rfl, rfl⟩ | ⟨rfl, rfl⟩ | ⟨rfl, rfl⟩ <;> exact ⟨rfl, fun _ => rfl⟩
  have hread : readCall p addr = readIt := readCall_of_active hp addr
  rw [hf, ← readPrim_eq]
  refine ⟨fun hk hcs => ?_, fun v hk ha => ?_, fun hk ha => getBitCmd_read_err hp hk ha⟩
  · rw [← hread]
    exact getBitCmd_start hp (csBlocked_eq_false hcs) hk
  · rw [getBitCmd_read_ok hp hk ha, bitOf_eq]
    rfl

/-! ### TBL -/

/-- `i` is TBL on an active port `p` (R151, R152). -/
structure TableCommand (p : Port) (tbase tlen : Half) (i : Instr) : Prop where
  active : isInert p = false
  controlBus : p ≠ .tb
  wellFormed : i.wellFormed = true
  family : ∀ s, exec i s = tblCmd p tbase tlen s

theorem activeTbl_family {tbase tlen : Half} {p : Port} {i : Instr}
    (hi : (p, i) ∈ [(Port.a8d8, Instr.tblA8D8 tbase tlen), (.a16d8, .tblA16D8 tbase tlen)]) :
    TableCommand p tbase tlen i := by
  simp only [List.mem_cons, List.not_mem_nil, or_false, Prod.mk.injEq] at hi
  rcases hi with ⟨rfl, rfl⟩ | ⟨rfl, rfl⟩ <;> exact ⟨rfl, nofun, rfl, fun _ => rfl⟩

/-- TI stands inside the table and inside TMEM (R150). -/
def TableInRange (tbase tlen : Half) (s : State) : Prop :=
  s.ti.toNat < tlen.toNat ∧ tbase.toNat + s.ti.toNat < s.cfg.tmemEntries

section
variable {p : Port} {tbase tlen : Half} {s : State}

theorem tableEntry_outOfRange (h : ¬TableInRange tbase tlen s) :
    tableEntry p tbase tlen s = .next (raise .rangeError .none s.ti s) := by
  refine if_pos ?_
  unfold TableInRange at h
  omega

section
variable (h : TableInRange tbase tlen s)
include h

theorem not_outOfRange : ¬(tlen.toNat ≤ s.ti.toNat ∨ s.cfg.tmemEntries ≤ tbase.toNat + s.ti.toNat) := by
  unfold TableInRange at h
  omega

theorem tableEntry_unwritten (hcell : Memory.read s.tmem (tbase.toNat + s.ti.toNat) = none) :
    tableEntry p tbase tlen s = .fault (.unwrittenTmem (tbase.toNat + s.ti.toNat)) := by
  simp only [tableEntry, not_outOfRange h, hcell, if_false]

theorem tableEntry_sentinel {e : Word32} (hcell : Memory.read s.tmem (tbase.toNat + s.ti.toNat) = some e)
    (he : isSentinel p e = true) : tableEntry p tbase tlen s = .next (finish .ok s) := by
  simp only [tableEntry, not_outOfRange h, hcell, he, if_true, if_false]

theorem tableEntry_write {e : Word32} (hcell : Memory.read s.tmem (tbase.toNat + s.ti.toNat) = some e)
    (he : isSentinel p e = false) : tableEntry p tbase tlen s =
      .next (portWrite p (entryAddr e) (entryVal e) { s with tblCount := s.tblCount + 1 }) := by
  simp only [tableEntry, not_outOfRange h, hcell, he, if_false, Bool.false_eq_true]

end

end

/-- The sentinel of an active port's table: masked address and value are all ones (R150). -/
theorem isSentinel_iff {p : Port} (hp : isInert p = false) (e : Word32) : isSentinel p e = true ↔
    entryAddr e &&& addrMask p = addrMask p ∧ entryVal e &&& 0x00FF = 0x00FF := by
  rw [isSentinel, Bool.and_eq_true, beq_iff_eq, beq_iff_eq, dataMask_of_active hp]

/-- Settles O24: the step goes to the head of the loop, at the start and after an entry answered `Ok` alike. -/
theorem tableEntrySteps : Obligations.TableEntrySteps := by
  intro tbase tlen s ti count p i hi hpoint inRange cell
  obtain ⟨hp, htb, -, hf⟩ := activeTbl_family hi
  have head : exec i s = tableEntry p tbase tlen { s with tblCount := count, ti := ti } := by
    rw [hf]
    rcases hpoint with ⟨hk, rfl, rfl⟩ | ⟨hk, ⟨v, ha⟩, rfl, rfl⟩
    exacts [tblCmd_start hp hk, tblCmd_written_ok hp hk ha]
  rw [head]
  refine ⟨fun hr => tableEntry_outOfRange hr, fun hr hcell => tableEntry_unwritten hr hcell, fun e hr hcell => ?_⟩
  have hsent := isSentinel_iff hp e
  intro a v call
  split
  · next h => exact tableEntry_sentinel hr hcell (hsent.2 h)
  · next h =>
    have hcall : writeCall p (entryAddr e) (entryVal e) = call := (writeCall_of_active hp _ _).trans (if_neg htb)
    rw [tableEntry_write (s := { s with tblCount := count, ti := ti }) hr hcell
      (Bool.eq_false_of_not_eq_true (mt hsent.1 h)), portWrite_eq, hcall]
    rfl

/-- Settles O25, point by point. -/
theorem tableDelayAndError : Obligations.TableDelayAndError := by
  intro tbase tlen s
  refine ⟨fun hk => exec_delay rfl hk, fun hk ha => ?_⟩
  exact List.forall_mem_cons.2 ⟨tblCmd_written_err (p := .a8d8) rfl hk ha,
    List.forall_mem_singleton.2 (tblCmd_written_err (p := .a16d8) rfl hk ha)⟩

end Sys2Proof.Proofs
end

section
/-! PROOFS. The register driver's commands from issue to end (R118, R141 to R166): the state that issuing a command leaves, and
the runs of NOP, WR, RD, SETB and CLRB from it. -/

namespace Sys2Proof.Proofs

open Sys2Proof Sys2Proof.Machine Sys2Proof.Safety Sys2Proof.Laws

/-! ### Running a command with an empty schedule -/

/-- The block is executing command `i`, and no host action is scheduled. -/
structure Running (i : Instr) (s : State) : Prop where
  busy : s.busy = true
  alone : s.inputs = []
  curCmd : s.curCmd = encode i

/-- The state after a well-formed command was issued: its first program point, with the outcome cleared (R118). -/
def atStart (i : Instr) (s : State) : State :=
  { s with
    cmdLast := encode i, curCmd := encode i, busy := true, err := .ok, errPrim := .none, errIdx := 0, pcSeq := .start }

theorem issued_eq {i : Instr} (hw : i.wellFormed = true) (s : State) : issued i s = atStart i s := by
  rcases takeCommand_cases (encode i) s with ⟨-, h⟩ | ⟨hl, -⟩
  · exact h
  · rw [legal_encode hw] at hl
    cases hl

theorem running_atStart {i : Instr} {s : State} (hi : s.inputs = []) : Running i (atStart i s) := ⟨rfl, hi, rfl⟩

section
variable {i : Instr} {s t : State}

theorem Running.step_eq_exec (h : Running i s) (hw : i.wellFormed = true) : step s = exec i s := by
  rw [step_of_inputs_nil h.alone, seqStep_of_busy h.busy (by rw [h.curCmd, decode_encode hw])]

/-- A run of a command is a step of it and then the run from where the step leaves it. -/
theorem Running.runSteps_succ (h : Running i s) (hw : i.wellFormed = true) (he : exec i s = .next t) (n : Nat) :
    runSteps (n + 1) s = runSteps n t :=
  runSteps_next ((h.step_eq_exec hw).trans he) n

theorem Running.ask (h : Running i s) (p : Prim) (k : Point) : Running i (ask p k s) := ⟨h.busy, h.alone, h.curCmd⟩

/-- The state after a primitive was answered `a`, with the answers `rest` left in the script (R9). -/
def answered (p : Prim) (a : Answer) (rest : List Answer) (k : Point) (s : State) : State :=
  { s with hist := s.hist ++ [⟨p, a⟩], ans := a, answers := rest, pcSeq := k }

theorem ask_eq_answered {p : Prim} {a a' : Answer} {rest : List Answer} (hs : s.answers = a' :: rest)
    (ha : answerTo p s = a) (k : Point) : ask p k s = answered p a rest k s := by
  subst ha
  rw [Machine.ask, hs]
  rfl

theorem Running.answered (h : Running i s) (p : Prim) (a : Answer) (rest : List Answer) (k : Point) :
    Running i (answered p a rest k s) := ⟨h.busy, h.alone, h.curCmd⟩

theorem Running.signal (h : Running i s) (p : Prim) (k : Point) : Running i (signal p k s) :=
  ⟨h.busy, h.alone, h.curCmd⟩

/-- RMW_V is no part of what a run goes on by (R50). -/
theorem Running.rmwV (h : Running i s) (v : Half) : Running i { s with rmwV := v } := ⟨h.busy, h.alone, h.curCmd⟩

end

/-- Settles O18: NOP's one step ends it, and what it was issued with is the cleared outcome. -/
theorem nopOnlyClearsOutcome : Obligations.NopOnlyClearsOutcome := by
  refine fun s => ⟨rfl, rfl, fun hb hi => ?_⟩
  rw [issued_eq rfl, (running_atStart hi).runSteps_succ rfl rfl, runSteps_zero, hb]
  rfl

/-! ### WR -/

/-- The end of a command by the answer to its write, as one state, where ERR_INFO is still as the issue left it (R145 to
R149). -/
theorem endWrite_of_cleared (p : Port) {s : State} (hprim : s.errPrim = .none) (hidx : s.errIdx = 0) :
    endWrite p s = { s with
      err := if s.ans = .err then .busError else .ok
      errPrim := if s.ans = .err then writePrim p else .none
      errIdx := 0, cancelPending := false, busy := false, pcSeq := .idle } := by
  cases h : s.ans <;> simp [endWrite, raise, finish, h, ← hprim, ← hidx]

theorem wrCmd_written {p : Port} {addr val : Half} {s : State} (hp : isInert p = false) (hk : s.pcSeq = .written) :
    wrCmd p addr val s = .next (endWrite p s) := by
  simp [wrCmd, hp, hk]

/-- Settles O21: the write, on A16D8 its delay, and the end by the write's answer, which the delay leaves pending. -/
theorem controlBusWriteWholeCommand : Obligations.ControlBusWriteWholeCommand := by
  intro addr val s hb hi narrow wide
  constructor
  · have hf (t : State) : exec (.wrA8D8 addr val) t = wrCmd .a8d8 addr val t := rfl
    have first : wrCmd .a8d8 addr val (atStart (.wrA8D8 addr val) s) =
        .next (ask narrow .written (atStart (.wrA8D8 addr val) s)) := wrCmd_start rfl rfl rfl
    have r := running_atStart (i := .wrA8D8 addr val) hi
    rw [issued_eq rfl, r.runSteps_succ rfl ((hf _).trans first),
      (r.ask narrow .written).runSteps_succ rfl ((hf _).trans (wrCmd_written rfl rfl)), runSteps_zero,
      endWrite_of_cleared .a8d8 rfl rfl, hb]
    rfl
  · have hf (t : State) : exec (.wrA16D8 addr val) t = wrCmd .a16d8 addr val t := rfl
    have first : wrCmd .a16d8 addr val (atStart (.wrA16D8 addr val) s) =
        .next (ask wide .delay (atStart (.wrA16D8 addr val) s)) := by
      rw [wrCmd_start rfl rfl rfl, portWrite_eq, writeCall_a16d8]
      rfl
    have r := running_atStart (i := .wrA16D8 addr val) hi
    have r' := r.ask wide .delay
    rw [issued_eq rfl, r.runSteps_succ rfl ((hf _).trans first), r'.runSteps_succ rfl (exec_delay rfl rfl),
      (r'.signal (.delayMs 1) .written).runSteps_succ rfl ((hf _).trans (wrCmd_written rfl rfl)), runSteps_zero,
      endWrite_of_cleared .a16d8 rfl rfl, hb, signal_hist, ask_hist, List.append_assoc]
    rfl

/-! ### RD -/

/-- The commands of `RD` on an active port are `rdCmd` on that port (R155, R156, R159). -/
theorem activeRd_family {addr : Half} {i : Instr} {call : Prim} {failed : PrimCode}
    (h : (i, call, failed) ∈ [(Instr.rdA8D8 addr, Prim.cbRead .w8 .w8 (addr &&& 0x00FF), PrimCode.cbRead),
      (.rdA16D8 addr, .cbRead .w16 .w8 addr, .cbRead), (.rdTB addr, .tbRead (addr.setWidth 8), .tbRead)]) :
    ∃ p, isInert p = false ∧ readCall p addr = call ∧ readPrim p = failed ∧ (p = .tb → i = .rdTB addr) ∧
      i.wellFormed = true ∧ ∀ s, exec i s = rdCmd p addr s := by
  simp only [List.mem_cons, List.not_mem_nil, or_false, Prod.mk.injEq] at h
  rcases h with ⟨rfl, rfl, rfl⟩ | ⟨rfl, rfl, rfl⟩ | ⟨rfl, rfl, rfl⟩
  · exact ⟨.a8d8, rfl, rfl, rfl, nofun, rfl, fun _ => rfl⟩
  · exact ⟨.a16d8, rfl, readCall_a16d8 addr, rfl, nofun, rfl, fun _ => rfl⟩
  · exact ⟨.tb, rfl, rfl, rfl, fun _ => rfl, rfl, fun _ => rfl⟩

section
variable {p : Port} {addr : Half} {s : State} {rest : List Answer}

/-- A scripted `Ok` answers a read through an active port with its low byte (R14). -/
theorem answerTo_readCall_ok {v : Half} (hp : isInert p = false) (h : s.answers = .ok v :: rest) :
    answerTo (readCall p addr) s = .ok (v &&& 0x00FF) := by
  cases p with
  | a8d8 | a16d8 => exact answerTo_cbRead_ok h
  | tb => exact answerTo_tbRead_ok h
  | a8d16 | a16d16 => cases hp

/-- A scripted `Err` answers a read through any port with `Err` (R14). -/
theorem answerTo_readCall_err (h : s.answers = .err :: rest) : answerTo (readCall p addr) s = .err := by
  cases p <;> simp [answerTo, fitAnswer, readCall, h]

end

/-- Settles O23: the read, and the end by its answer. -/
theorem readWholeCommand : Obligations.ReadWholeCommand := by
  intro addr rest s i call failed hmem hb hi hcs
  obtain ⟨p, hp, rfl, rfl, htb, hw, hf⟩ := activeRd_family hmem
  have r := running_atStart (i := i) hi
  have hc : csBlocked p (atStart i s) = false := csBlocked_eq_false fun h => hcs (htb h)
  have first : exec i (atStart i s) = .next (ask (readCall p addr) .read (atStart i s)) :=
    (hf _).trans (rdCmd_start hp hc rfl)
  refine ⟨fun v ha => ?_, fun ha => ?_⟩
  · rw [ask_eq_answered (s := atStart i s) ha (answerTo_readCall_ok hp ha)] at first
    rw [issued_eq hw, r.runSteps_succ hw first,
      (r.answered ..).runSteps_succ hw ((hf _).trans (rdCmd_read_ok hp rfl rfl)), runSteps_zero, hb]
    rfl
  · rw [ask_eq_answered (s := atStart i s) ha (answerTo_readCall_err ha)] at first
    rw [issued_eq hw, r.runSteps_succ hw first,
      (r.answered ..).runSteps_succ hw ((hf _).trans (rdCmd_read_err hp rfl rfl)), runSteps_zero, hb]
    rfl

/-! ### SETB and CLRB through A16D8 -/

theorem lowByte_getLsbD {k : Nat} (hk : k < 16) : (0x00FF : Half).getLsbD k = decide (k < 8) := by
  revert k
  decide

/-- The value that SETB and CLRB write through an 8-bit data port has the bit `b` set or clear and every other bit as in the
byte `v` read (R160, R166). -/
def HasOneBitChanged (set : Bool) (v : Half) (b : BitVec 4) (x : Half) : Prop :=
  ∀ k < 16, x.getLsbD k = if k = b.toNat then set else (k < 8 && v.getLsbD k)

theorem withBitSet_hasOneBitChanged (v : Half) {b : BitVec 4} (hb : b.toNat ≤ 7) :
    HasOneBitChanged true v b (withBitSet (v &&& 0x00FF) b &&& 0x00FF) := by
  intro k hk
  rw [BitVec.getLsbD_and, withBitSet_getLsbD _ _ hk, BitVec.getLsbD_and, lowByte_getLsbD hk]
  by_cases hkb : k = b.toNat
  · simp [hkb, Nat.lt_succ_of_le hb]
  · cases decide (k < 8) <;> simp [hkb]

theorem withBitClear_hasOneBitChanged (v : Half) (b : BitVec 4) :
    HasOneBitChanged false v b (withBitClear .a16d8 (v &&& 0x00FF) b &&& 0x00FF) := by
  intro k hk
  rw [BitVec.getLsbD_and, withBitClear_getLsbD _ _ _ hk, BitVec.getLsbD_and, dataMask_of_active rfl, lowByte_getLsbD hk]
  by_cases hkb : k = b.toNat
  · simp [hkb]
  · cases decide (k < 8) <;> simp [hkb]

section
variable {addr v w : Half} {modify : Half → Half} {rest : List Answer} {s : State}

theorem modifyWide_start (hk : s.pcSeq = .start) (ha : s.answers = .ok v :: rest) : modifyCmd .a16d8 addr modify s =
    .next (answered (.cbRead .w16 .w8 addr) (.ok (v &&& 0x00FF)) rest .read s) := by
  rw [modifyCmd_start rfl rfl hk, ask_eq_answered ha (answerTo_readCall_ok rfl ha), readCall_a16d8]

theorem modifyWide_read (hk : s.pcSeq = .read) (hv : s.ans = .ok v) (ha : s.answers = .ok w :: rest) :
    modifyCmd .a16d8 addr modify s = .next
      (answered (.cbWrite .w16 .w8 addr (modify v &&& 0x00FF)) (.ok 0) rest .delay { s with rmwV := v }) := by
  have hs : ({ s with rmwV := v } : State).answers = .ok w :: rest := ha
  rw [modifyCmd_read_ok rfl hk hv, portWrite_eq, if_pos rfl, writeCall_a16d8, ask_eq_answered hs (answerTo_cbWrite_ok hs)]

/-- The end of SETB or CLRB through A16D8 after the read of `v`, the write of `x` and the delay, both answered `Ok` (R142,
R160). -/
def modifiedWide (i : Instr) (addr v x w : Half) (rest : List Answer) (s : State) : State :=
  finish .ok (signal (.delayMs 1) .written (answered (.cbWrite .w16 .w8 addr x) (.ok 0) rest .delay
    { answered (.cbRead .w16 .w8 addr) (.ok v) (.ok w :: rest) .read (atStart i s) with rmwV := v }))

theorem runSteps_modifyWide {i : Instr} (hw : i.wellFormed = true) (hwide : writesWide i = true)
    (hf : ∀ t, exec i t = modifyCmd .a16d8 addr modify t) (hi : s.inputs = [])
    (ha : s.answers = .ok v :: .ok w :: rest) : runSteps 4 (issued i s) = .next
      (modifiedWide i addr (v &&& 0x00FF) (modify (v &&& 0x00FF) &&& 0x00FF) w rest s) := by
  have r := running_atStart (i := i) hi
  have read := (hf _).trans (modifyWide_start (addr := addr) (modify := modify) (s := atStart i s) rfl ha)
  have r' := r.answered (.cbRead .w16 .w8 addr) (.ok (v &&& 0x00FF)) (.ok w :: rest) .read
  have write := (hf _).trans (modifyWide_read (addr := addr) (modify := modify)
    (s := answered (.cbRead .w16 .w8 addr) (.ok (v &&& 0x00FF)) (.ok w :: rest) .read (atStart i s)) rfl rfl rfl)
  have r'' := (r'.rmwV (v &&& 0x00FF)).answered (.cbWrite .w16 .w8 addr (modify (v &&& 0x00FF) &&& 0x00FF)) (.ok 0) rest
    .delay
  rw [issued_eq hw, r.runSteps_succ hw read, r'.runSteps_succ hw write, r''.runSteps_succ hw (exec_delay hwide rfl),
    (r''.signal (.delayMs 1) .written).runSteps_succ hw ((hf _).trans (modifyCmd_written_ok rfl rfl rfl)), runSteps_zero]
  rfl

end

/-- Settles O29: the run of either command, and the one bit its value changes. -/
theorem wideBitWholeCommand : Obligations.WideBitWholeCommand := by
  intro addr v w bit rest s set hbit hb hi ha
  have hist (i : Instr) (x : Half) : (modifiedWide i addr (v &&& 0x00FF) x w rest s).hist =
      s.hist ++ [⟨.cbRead .w16 .w8 addr, .ok (v &&& 0x00FF)⟩, ⟨.cbWrite .w16 .w8 addr x, .ok 0⟩, ⟨.delayMs 1, .ok 0⟩] := by
    simp [modifiedWide, answered, atStart]
  cases set with
  | true =>
    exact ⟨_, runSteps_modifyWide (i := .setbA16D8 addr bit) (decide_eq_true hbit) rfl (fun _ => rfl) hi ha,
      ⟨_, hist _ _, withBitSet_hasOneBitChanged v hbit⟩, rfl, rfl, rfl, rfl, rfl, rfl, rfl⟩
  | false =>
    exact ⟨_, runSteps_modifyWide (i := .clrbA16D8 addr bit) (decide_eq_true hbit) rfl (fun _ => rfl) hi ha,
      ⟨_, hist _ _, withBitClear_hasOneBitChanged v bit⟩, rfl, rfl, rfl, rfl, rfl, rfl, rfl⟩

end Sys2Proof.Proofs
end

section
/-! PROOFS. TBL from issue to end (R150, R164): the loop's head, reached once per entry, and the two ends. -/

namespace Sys2Proof.Proofs

open Sys2Proof Sys2Proof.Machine Sys2Proof.Safety Sys2Proof.Laws

/-- A run that has ended its command, with no host action scheduled, stays where it is (R305). -/
theorem runSteps_of_ended {m n : Nat} {s t : State} (h : runSteps m s = .next t) (hb : t.busy = false)
    (hi : t.inputs = []) (hmn : m ≤ n) : runSteps n s = .next t := by
  obtain ⟨k, rfl⟩ := Nat.exists_eq_add_of_le hmn
  rw [runSteps_add h, runSteps_stay ((step_of_inputs_nil hi).trans (seqStep_of_idle hb))]

/-- TI and TBL_COUNT do not wrap inside a table: its length is a 16-bit number (R150). -/
theorem toNat_succ_of_lt {k : Nat} {x y : Half} (hx : x.toNat = k) (hk : k < y.toNat) : (x + 1).toNat = k + 1 := by
  have := y.isLt
  rw [BitVec.toNat_add, hx, show (1 : Half).toNat = 1 from rfl]
  exact Nat.mod_eq_of_lt (by omega)

/-- How many steps one entry takes: its write, and on A16D8 its delay (R142). -/
def entrySteps (p : Port) : Nat := if hasDelay p then 2 else 1

theorem entrySteps_le (p : Port) : entrySteps p ≤ 2 := by
  cases p <;> decide

/-- The state after an entry's write, answered `a`, and its delay (R150). -/
def entryWritten (p : Port) (e : Word32) (a : Answer) (rest : List Answer) (u : State) : State :=
  { u with
    tblCount := u.tblCount + 1, hist := u.hist ++ entryEvents p e a, ans := a, answers := rest, pcSeq := .written }

/-- The block in state `v` is about to go through the head of TBL's loop, which finds the state `u` with TI `k`; the entries
before wrote `events` since the state `s`, and `script` answers the rest (R150). -/
structure AtEntry (p : Port) (tbase tlen : Half) (i : Instr) (s : State) (k : Nat) (events : List Event)
    (script : List Answer) (v u : State) : Prop where
  head : step v = tableEntry p tbase tlen u
  running : Running i u
  tmem : u.tmem = s.tmem
  cfg : u.cfg = s.cfg
  ti : u.ti.toNat = k
  count : u.tblCount.toNat = k
  hist : u.hist = s.hist ++ events
  answers : u.answers = script
  cleared : u.errPrim = .none ∧ u.errIdx = 0

/-- TMEM holds the entry `e` at the table's index `k`, which stands inside the table and inside TMEM (R150). -/
structure EntryAt (tbase tlen : Half) (s : State) (k : Nat) (e : Word32) : Prop where
  inTable : k < tlen.toNat
  inMemory : tbase.toNat + k < s.cfg.tmemEntries
  cell : Memory.read s.tmem (tbase.toNat + k) = some e

section
variable {p : Port} {tbase tlen : Half} {i : Instr} {s v u : State} {k : Nat} {events : List Event} {e : Word32}
  {a : Answer} {rest : List Answer}

theorem Running.entryWritten (h : Running i u) : Running i (entryWritten p e a rest u) := ⟨h.busy, h.alone, h.curCmd⟩

theorem AtEntry.inRange {script : List Answer} (h : AtEntry p tbase tlen i s k events script v u)
    (he : EntryAt tbase tlen s k e) :
    TableInRange tbase tlen u ∧ Memory.read u.tmem (tbase.toNat + u.ti.toNat) = some e := by
  obtain ⟨hk, hmem, hcell⟩ := he
  rw [TableInRange, h.ti, h.cfg, h.tmem]
  exact ⟨⟨hk, hmem⟩, hcell⟩

/-- A sentinel ends the table (R150). -/
theorem AtEntry.sentinel {script : List Answer} (h : AtEntry p tbase tlen i s k events script v u)
    (he : EntryAt tbase tlen s k e) (hs : isSentinel p e = true) : runSteps 1 v = .next (finish .ok u) := by
  obtain ⟨hr, hcell⟩ := h.inRange he
  rw [runSteps_next (h.head.trans (tableEntry_sentinel hr hcell hs)), runSteps_zero]

variable (hi : TableCommand p tbase tlen i)
include hi

/-- A block that was issued TBL is about to go through the loop's head with TI 0 (R150). -/
theorem atEntry_issued (hin : s.inputs = []) :
    AtEntry p tbase tlen i s 0 [] s.answers (issued i s) { atStart i s with tblCount := 0, ti := 0 } where
  head := by
    rw [issued_eq hi.wellFormed, (running_atStart hin).step_eq_exec hi.wellFormed, hi.family, tblCmd_start hi.active rfl]
  running := ⟨rfl, hin, rfl⟩
  tmem := rfl
  cfg := rfl
  ti := rfl
  count := rfl
  hist := (List.append_nil _).symm
  answers := rfl
  cleared := ⟨rfl, rfl⟩

/-- An entry that is no sentinel is written once, and on A16D8 followed by its delay, whatever the answer (R142, R150). -/
theorem AtEntry.runSteps_entry {a' : Answer} (h : AtEntry p tbase tlen i s k events (a' :: rest) v u)
    (he : EntryAt tbase tlen s k e) (hs : isSentinel p e = false)
    (ha : ∀ t : State, t.answers = a' :: rest → answerTo (writeCall p (entryAddr e) (entryVal e)) t = a) :
    runSteps (entrySteps p) v = .next (entryWritten p e a rest u) := by
  obtain ⟨hr, hcell⟩ := h.inRange he
  have hscript : ({ u with tblCount := u.tblCount + 1 } : State).answers = a' :: rest := h.answers
  have write := h.head.trans (tableEntry_write hr hcell hs)
  rw [portWrite_eq, ask_eq_answered hscript (ha _ hscript)] at write
  cases p with
  | a8d8 => exact runSteps_next write 0
  | a16d8 =>
    have r : Running i (answered (writeCall .a16d8 (entryAddr e) (entryVal e)) a rest .delay
        { u with tblCount := u.tblCount + 1 }) := ⟨h.running.busy, h.running.alone, h.running.curCmd⟩
    rw [if_pos rfl] at write
    rw [show entrySteps .a16d8 = 0 + 1 + 1 from rfl, runSteps_next write,
      r.runSteps_succ hi.wellFormed ((hi.family _).trans (tblCmd_delay rfl rfl)), runSteps_zero, signal, answered,
      List.append_assoc]
    rfl
  | tb => exact absurd rfl hi.controlBus
  | a8d16 | a16d16 => exact nomatch hi.active

/-- On a control-bus port a scripted `Ok` answers an entry's write without a value (R14). -/
theorem answerTo_entry_ok {w : Half} (t : State) (h : t.answers = .ok w :: rest) :
    answerTo (writeCall p (entryAddr e) (entryVal e)) t = .ok 0 := by
  rw [writeCall_of_active hi.active, if_neg hi.controlBus]
  exact answerTo_cbWrite_ok h

theorem answerTo_entry_err (t : State) (h : t.answers = .err :: rest) :
    answerTo (writeCall p (entryAddr e) (entryVal e)) t = .err := by
  rw [writeCall_of_active hi.active, if_neg hi.controlBus]
  exact answerTo_cbWrite_err h

/-- After an entry answered `Ok` the loop goes on at the next index (R150). -/
theorem AtEntry.next {w : Half} (h : AtEntry p tbase tlen i s k events (.ok w :: rest) v u)
    (he : EntryAt tbase tlen s k e) (hs : isSentinel p e = false) :
    ∃ v' u', runSteps (entrySteps p) v = .next v' ∧
      AtEntry p tbase tlen i s (k + 1) (events ++ entryEvents p e (.ok 0)) rest v' u' := by
  have r := h.running.entryWritten (p := p) (e := e) (a := .ok 0) (rest := rest)
  refine ⟨entryWritten p e (.ok 0) rest u, { entryWritten p e (.ok 0) rest u with ti := u.ti + 1 },
    h.runSteps_entry hi he hs (answerTo_entry_ok hi), ?_⟩
  exact {
    head := by rw [r.step_eq_exec hi.wellFormed, hi.family, tblCmd_written_ok hi.active rfl rfl]; rfl
    running := ⟨r.busy, r.alone, r.curCmd⟩
    tmem := h.tmem
    cfg := h.cfg
    ti := toNat_succ_of_lt h.ti he.inTable
    count := toNat_succ_of_lt h.count he.inTable
    hist := by rw [← List.append_assoc, ← h.hist]; rfl
    answers := rfl
    cleared := h.cleared }

/-- An entry answered `Err` ends the table with its index (R150). -/
theorem AtEntry.busError (h : AtEntry p tbase tlen i s k events (.err :: rest) v u) (he : EntryAt tbase tlen s k e)
    (hs : isSentinel p e = false) :
    runSteps (entrySteps p + 1) v = .next (raise .busError .cbWrite u.ti (entryWritten p e .err rest u)) := by
  have r := h.running.entryWritten (p := p) (e := e) (a := .err) (rest := rest)
  rw [runSteps_add (h.runSteps_entry hi he hs (answerTo_entry_err hi)),
    r.runSteps_succ hi.wellFormed ((hi.family _).trans (tblCmd_written_err hi.active rfl rfl)), runSteps_zero]
  rfl

end

/-! ### The entries in order -/

theorem tableEvents_take_succ (p : Port) {es : List Word32} {k : Nat} (h : k < es.length) :
    tableEvents p (es.take (k + 1)) = tableEvents p (es.take k) ++ entryEvents p es[k] (.ok 0) := by
  rw [← List.take_append_getElem h, tableEvents, List.flatMap_append, List.flatMap_singleton]
  rfl

/-- With the answers `oks` before `rest` in the script, the loop's head is reached with as many entries written, in order
(R164). -/
theorem reaches_entry {p : Port} {tbase tlen : Half} {i : Instr} {s : State} {es : List Word32}
    (hi : TableCommand p tbase tlen i) (hin : s.inputs = [])
    (he : ∀ k (h : k < es.length), EntryAt tbase tlen s k es[k] ∧ isSentinel p es[k] = false) (oks : List Half)
    (rest : List Answer) (hlen : oks.length ≤ es.length) (ha : s.answers = oks.map Answer.ok ++ rest) :
    ∃ v u, runSteps (entrySteps p * oks.length) (issued i s) = .next v ∧
      AtEntry p tbase tlen i s oks.length (tableEvents p (es.take oks.length)) rest v u := by
  induction oks using List.reverseRecOn generalizing rest with
  | nil => exact ⟨_, _, rfl, ha ▸ atEntry_issued hi hin⟩
  | append_singleton oks w ih =>
    rw [List.length_append, List.length_singleton] at hlen ⊢
    obtain ⟨v, u, hrun, h⟩ := ih (.ok w :: rest) (by omega) (by simpa using ha)
    obtain ⟨hentry, hs⟩ := he oks.length hlen
    obtain ⟨v', u', hrun', h'⟩ := h.next hi hentry hs
    refine ⟨v', u', ?_, ?_⟩
    · rw [Nat.mul_succ, runSteps_add hrun, hrun']
    · rwa [tableEvents_take_succ p hlen]

/-- Settles O26: both runs reach the loop's head with the entries answered `Ok` written; there one ends at the sentinel and
the other at the entry answered `Err`. -/
theorem tableWritesEntriesInOrder : Obligations.TableWritesEntriesInOrder := by
  intro tbase tlen es last oks s p i hmem _ hin hlen hspace htable hentries hlast
  have hi := activeTbl_family hmem
  have cell (k : Nat) (h : k < es.length) : EntryAt tbase tlen s k es[k] ∧ isSentinel p es[k] = false := by
    have := htable k (by simp; omega)
    exact ⟨⟨by omega, by omega, by simpa [h] using this⟩, hentries _ (List.getElem_mem h)⟩
  have sentinel : EntryAt tbase tlen s es.length last := by
    have := htable es.length (by simp)
    exact ⟨hlen, hspace, by simpa using this⟩
  have steps (n : Nat) : entrySteps p * n ≤ 2 * n := Nat.mul_le_mul_right n (entrySteps_le p)
  refine ⟨fun rest ha hn => ?_, fun rest j hj ha hn => ?_⟩
  · obtain ⟨v, u, hrun, h⟩ := reaches_entry hi hin cell oks rest hn.le ha
    rw [hn] at hrun h
    rw [List.take_length] at h
    have hrun' := runSteps_add hrun 1
    rw [h.sentinel sentinel hlast] at hrun'
    refine ⟨_, runSteps_of_ended hrun' rfl h.running.alone ?_, h.hist, h.count, rfl, h.cleared.1, h.cleared.2, rfl,
      h.answers⟩
    have := steps es.length
    omega
  · obtain ⟨v, u, hrun, h⟩ := reaches_entry hi hin cell oks (.err :: rest) (by omega) ha
    obtain ⟨hentry, hs⟩ := cell j hj
    subst hn
    have hrun' := runSteps_add hrun (entrySteps p + 1)
    rw [h.busError hi hentry hs] at hrun'
    refine ⟨_, runSteps_of_ended hrun' rfl h.running.alone ?_, ?_, toNat_succ_of_lt h.count hentry.inTable, rfl, rfl, h.ti,
      rfl, rfl⟩
    · have := steps oks.length
      have := entrySteps_le p
      omega
    · exact congrArg (· ++ entryEvents p es[oks.length] .err) h.hist

end Sys2Proof.Proofs
end

section
/-! PROOFS. CAPTURE and DESELECT (R190 to R207), one equation for each of their program points, and the statements about
their single steps. -/

namespace Sys2Proof.Proofs

open Sys2Proof Sys2Proof.Machine Sys2Proof.Safety Sys2Proof.Laws

/-! ### CAPTURE at each of its program points -/

section
variable {s : State} {v : Half}

/-- With chip-select released CAPTURE clears its session and sends the first arming write (R192 to R194). -/
theorem execCapture_start (hk : s.pcSeq = .start) (hc : s.csState = .deselected) :
    execCapture s = .next (ask (.tbWrite s.cfg.regFifoCtrl s.cfg.maskFifoClear) .armClear (sessionInit s)) := by
  simp only [execCapture, hk, captureFirst, hc, ne_eq, not_true, if_false]

/-- With chip-select not known to be released CAPTURE refuses (R192). -/
theorem execCapture_start_refused (hk : s.pcSeq = .start) (hc : s.csState ≠ .deselected) :
    execCapture s = .next (raise .csNotReleased .none 0 s) := by
  simp only [execCapture, hk, captureFirst, if_pos hc, raiseCs_eq]

theorem execCapture_armClear (hk : s.pcSeq = .armClear) (ha : s.ans = .ok v) :
    execCapture s = .next (ask (.tbWrite s.cfg.regFifoCtrl s.cfg.maskFifoStart) .armStart s) := by
  simp only [execCapture, hk, afterArmClear, ha]

theorem execCapture_armStart (hk : s.pcSeq = .armStart) (ha : s.ans = .ok v) :
    execCapture s = .next (pollAgain { s with capState := .armed }) := by
  simp only [execCapture, hk, afterArmStart, ha]

theorem execCapture_polled_done (hk : s.pcSeq = .polled) (ha : s.ans = .ok v)
    (hdone : v.setWidth 8 &&& s.cfg.maskCapDone ≠ 0) :
    execCapture s = .next (ask (.tbRead s.cfg.regSize1) .size1 { s with capState := .streaming }) := by
  simp only [execCapture, hk, afterPoll, ha, if_pos hdone]

theorem execCapture_polled_again (hk : s.pcSeq = .polled) (ha : s.ans = .ok v)
    (hdone : v.setWidth 8 &&& s.cfg.maskCapDone = 0) : execCapture s = .next (pollAgain s) := by
  simp only [execCapture, hk, afterPoll, ha, hdone, ne_eq, not_true, if_false]

/-- After the second arming write, and after a poll without the done bit, CAPTURE polls (R194, R195). -/
theorem execCapture_polls (ha : s.ans = .ok v)
    (hpoll : s.pcSeq = .armStart ∨ s.pcSeq = .polled ∧ v.setWidth 8 &&& s.cfg.maskCapDone = 0) :
    ∃ c, execCapture s = .next (pollAgain { s with capState := c }) := by
  rcases hpoll with hk | ⟨hk, hdone⟩
  · exact ⟨.armed, execCapture_armStart hk ha⟩
  · exact ⟨s.capState, execCapture_polled_again hk ha hdone⟩

theorem execCapture_size1 (hk : s.pcSeq = .size1) (ha : s.ans = .ok v) :
    execCapture s = .next (ask (.tbRead s.cfg.regSize2) .size2 { s with size1 := v.setWidth 8 }) := by
  simp only [execCapture, hk, afterSize1, ha]

theorem execCapture_size2 (hk : s.pcSeq = .size2) (ha : s.ans = .ok v) :
    execCapture s = .next (ask (.tbRead s.cfg.regSize3) .size3 { s with size2 := v.setWidth 8 }) := by
  simp only [execCapture, hk, afterSize2, ha]

theorem execCapture_size3 (hk : s.pcSeq = .size3) (ha : s.ans = .ok v) :
    execCapture s = .next (openBurst { s with capLen := fifoLength s.size1 s.size2 (v.setWidth 8) }) := by
  simp only [execCapture, hk, afterSize3, ha]

theorem execCapture_csAsserted (hk : s.pcSeq = .csAsserted) :
    execCapture s = .next (ask .burstBegin .burstOpen { s with csState := .asserted }) := by
  simp only [execCapture, hk, afterCsAssert]

theorem execCapture_burstOpen (hk : s.pcSeq = .burstOpen) (ha : s.ans = .ok v) :
    execCapture s = .next (streamNext s) := by
  simp only [execCapture, hk, afterBurstOpen, ha]

theorem execCapture_pulled (hk : s.pcSeq = .pulled) (ha : s.ans = .ok v) :
    execCapture s = examineWindow (slideWindow (v.setWidth 8) s) := by
  simp only [execCapture, hk, afterPull, ha]

/-- Outside a frame a byte that completes no start marker is passed over (R199). -/
theorem examineWindow_passes (hf : s.inFrame = false) (hwin : ¬(s.capPrev = 0xFF ∧ s.capCur = 0xD8)) :
    examineWindow s = .next (streamNext s) := by
  rcases examineWindow_cases s with ⟨hf', -⟩ | ⟨-, hprev, hcur, -⟩ | ⟨-, -, e⟩
  · rw [hf] at hf'
    cases hf'
  · exact absurd ⟨hprev, hcur⟩ hwin
  · exact e

theorem execCapture_eofFlushed (hk : s.pcSeq = .eofFlushed) (ha : s.ans = .ok v) :
    execCapture s = .next (signal .csDeassert .eofDeasserted
      { s with capOut := s.capOut + s.capCursor, inFrame := false, capCursor := 0 }) := by
  simp only [execCapture, hk, afterEofFlush, ha]

theorem execCapture_eofDeasserted (hk : s.pcSeq = .eofDeasserted) :
    execCapture s = .next (finish .ok { s with csState := .deselected, capState := .done }) := by
  simp only [execCapture, hk, captureDone]

theorem execCapture_exhausted (hk : s.pcSeq = .exhausted) :
    execCapture s = .next (captureFail .incompleteFrame .none { s with csState := .deselected }) := by
  simp only [execCapture, hk, captureIncomplete]

/-- The bus primitive that CAPTURE waits for at a program point, as ERR_INFO names it (R42, R205). -/
def awaitedPrim : Point → Option PrimCode
  | .armClear | .armStart => some .tbWrite
  | .polled | .size1 | .size2 | .size3 => some .tbRead
  | .burstOpen | .rotBurst _ => some .burstBegin
  | .pulled => some .xfer
  | _ => none

/-- The program points at which CAPTURE waits for the sink (R201, R203). -/
def sinkPoint : Point → Bool
  | .rotFlushed _ | .eofFlushed => true
  | _ => false

/-- A bus primitive answered `Err` ends the capture (R205). -/
theorem execCapture_busError {prim : PrimCode} (hk : awaitedPrim s.pcSeq = some prim) (ha : s.ans = .err) :
    execCapture s = .next (captureFail .busError prim s) := by
  cases hp : s.pcSeq with
  | armClear | armStart | polled | size1 | size2 | size3 | burstOpen | pulled | rotBurst =>
    rw [hp] at hk
    cases hk
    simp only [execCapture, hp, afterArmClear, afterArmStart, afterPoll, afterSize1, afterSize2, afterSize3, afterBurstOpen,
      afterPull, afterRotBurst, ha]
  | _ =>
    rw [hp] at hk
    cases hk

/-- A sink write answered `Err` ends the capture with chip-select unknown (R205). -/
theorem execCapture_sinkError (hk : sinkPoint s.pcSeq = true) (ha : s.ans = .err) :
    execCapture s = .next (captureSinkFail s) := by
  cases hp : s.pcSeq with
  | rotFlushed | eofFlushed => simp only [execCapture, hp, afterRotFlush, afterEofFlush, ha]
  | _ =>
    rw [hp] at hk
    cases hk

end

/-! ### Arming, polling and the length -/

/-- Settles O32, by the equations of the two arming steps. -/
theorem captureArms : Obligations.CaptureArms := fun _ =>
  ⟨fun hk hc => execCapture_start hk hc, fun _ hk ha => execCapture_armClear hk ha⟩

/-- Settles O33: both ways to a poll lead to `POLL()`, which is the rule's chain of cancel check, bound and read (R195). -/
theorem capturePolls : Obligations.CapturePolls := by
  refine fun s v ha => ⟨fun hk hdone => execCapture_polled_done hk ha hdone, fun hpoll => ?_⟩
  have hexec : exec .capture s = .next (pollAgain { s with capState := .armed }) := by
    rcases hpoll with hk | ⟨hk, harmed, hdone⟩
    · exact execCapture_armStart hk ha
    · rw [← harmed]
      exact execCapture_polled_again hk ha hdone
  rw [hexec, pollAgain]
  split_ifs <;> rfl

/-- Settles O34: the three bytes stand side by side in the length, the third without its bit 7. -/
theorem fifoLengthFormula : Obligations.FifoLengthFormula := by
  intro size1 size2 size3
  have h1 := size1.isLt
  have h2 := size2.isLt
  have h7 : size3.toNat &&& 127 = size3.toNat % 128 := Nat.and_two_pow_sub_one_eq_mod _ 7
  have low : size2.toNat <<< 8 ||| size1.toNat = size2.toNat * 256 + size1.toNat := by
    rw [← Nat.shiftLeft_add_eq_or_of_lt h1, Nat.shiftLeft_eq]
  have all : (size3.toNat % 128) <<< 16 ||| (size2.toNat * 256 + size1.toNat) =
      size3.toNat % 128 * 65536 + (size2.toNat * 256 + size1.toNat) := by
    rw [← Nat.shiftLeft_add_eq_or_of_lt (by omega), Nat.shiftLeft_eq]
  have n3 : ((size3 &&& 0x7F).setWidth 32 <<< 16).toNat = (size3.toNat % 128) <<< 16 := by
    simp only [BitVec.toNat_shiftLeft, BitVec.toNat_setWidth, BitVec.toNat_and]
    rw [show (0x7F : Byte).toNat = 127 from rfl, h7]
    simp only [Nat.shiftLeft_eq]
    omega
  have n2 : (size2.setWidth 32 <<< 8).toNat = size2.toNat <<< 8 := by
    simp only [BitVec.toNat_shiftLeft, BitVec.toNat_setWidth, Nat.shiftLeft_eq]
    omega
  have n1 : (size1.setWidth 32).toNat = size1.toNat := by
    rw [BitVec.toNat_setWidth]
    omega
  rw [fifoLength, BitVec.toNat_setWidth, BitVec.toNat_and, BitVec.toNat_or, BitVec.toNat_or, n3, n2, n1, Nat.or_assoc, low,
    all, show (0x7FFFFF : Word32).toNat = 2 ^ 23 - 1 from rfl, Nat.and_two_pow_sub_one_eq_mod]
  omega

/-- Settles O35, by the equations of the three reads and of the length checks. -/
theorem captureReadsLength : Obligations.CaptureReadsLength := by
  refine fun s v ha => ⟨fun hk => execCapture_size1 hk ha, fun hk => execCapture_size2 hk ha, fun hk => ?_⟩
  rw [show exec .capture s = _ from execCapture_size3 hk ha, openBurst]
  split_ifs <;> rfl

/-! ### The stream -/

/-- Settles O36, by the equations of the steps; outside a frame a byte that completes no marker goes on to the next pull. -/
theorem captureStreams : Obligations.CaptureStreams := by
  intro s pull goOn
  have streamNext_eq (u : State) : streamNext u = goOn u := rfl
  refine ⟨fun hk => execCapture_csAsserted hk, fun v hk ha => ?_, fun v hk ha hf hwin => ?_,
    fun hk => execCapture_exhausted hk⟩
  · rw [← streamNext_eq]
    exact execCapture_burstOpen hk ha
  · rw [← streamNext_eq]
    exact (execCapture_pulled hk ha).trans (examineWindow_passes hf hwin)

/-! ### The ends -/

/-- Settles O40, by the equations of the last two steps. -/
theorem captureEndsFrame : Obligations.CaptureEndsFrame := fun _ =>
  ⟨fun _ hk ha => execCapture_eofFlushed hk ha, fun hk => execCapture_eofDeasserted hk⟩

/-- Settles O41, by the equations of the failing steps. -/
theorem captureErrorExits : Obligations.CaptureErrorExits := by
  intro s prim site v ended len
  refine ⟨fun ha hk => ?_, fun ha hk => ?_, fun ha hpoll => ?_, fun ha hk => ⟨fun hlen => ?_, fun hlen hmax => ?_⟩,
    fun hk => execCapture_exhausted hk, fun hk hc hidle => ?_⟩
  · refine execCapture_busError ?_ ha
    simp only [List.mem_cons, Prod.mk.injEq, List.not_mem_nil, or_false] at hk
    rcases hk with ⟨hk, rfl⟩ | ⟨hk, rfl⟩ | ⟨hk, rfl⟩ | ⟨hk, rfl⟩ | ⟨hk, rfl⟩ | ⟨hk, rfl⟩ | ⟨hk, rfl⟩ | ⟨hk, rfl⟩ |
      ⟨hk, rfl⟩ <;> rw [hk] <;> rfl
  · refine execCapture_sinkError ?_ ha
    simp only [List.mem_cons, List.not_mem_nil, or_false] at hk
    rcases hk with hk | hk <;> rw [hk] <;> rfl
  · obtain ⟨c, hexec⟩ := execCapture_polls ha hpoll
    have hexec' : exec .capture s = .next (pollAgain { s with capState := c }) := hexec
    rw [hexec', pollAgain]
    exact ⟨fun hc => by rw [if_pos hc]; rfl, fun hc hmax => by rw [if_neg (by simp [hc]), if_pos hmax]; rfl⟩
  · rw [show exec .capture s = _ from execCapture_size3 hk ha, openBurst, if_pos hlen]
    rfl
  · rw [show exec .capture s = _ from execCapture_size3 hk ha, openBurst, if_neg hlen, if_pos hmax]
    rfl
  · rw [show exec .capture s = _ from execCapture_start_refused hk hc]
    simp only [ended, raise, ← hidle]

/-! ### DESELECT -/

/-- What neither CAPTURE nor DESELECT changes (R140, R191, R207). -/
structure CaptureFrame (s t : State) : Prop extends HostSideKept s t where
  result : KeepsResult s t
  table : KeepsTable s t
  counters : t.nmeaOk = s.nmeaOk ∧ t.nmeaBad = s.nmeaBad ∧ t.nmeaUnk = s.nmeaUnk
  loc : t.loc = s.loc
  rmwV : t.rmwV = s.rmwV
  inputs : t.inputs = s.inputs
  draws : t.draws = s.draws

theorem CaptureShape.captureFrame {s t : State} (h : CaptureShape s t) : CaptureFrame s t := by
  obtain ⟨u, hu, ht⟩ := h
  unfold CaptureOnly at hu
  rw [hu] at ht
  rcases ht with ⟨e, prim, rfl⟩ | rfl | ⟨p, k, -, rfl⟩ | ⟨p, k, -, rfl⟩ | ⟨bytes, k, -, rfl⟩ <;>
    exact ⟨⟨rfl, rfl, rfl, rfl, rfl, rfl⟩, ⟨rfl, rfl⟩, ⟨rfl, rfl⟩, ⟨rfl, rfl, rfl⟩, rfl, rfl, rfl, rfl⟩

/-- A step of DESELECT is its end, or its one event (R207). -/
theorem execDeselect_end_or_event {s t : State} (h : execDeselect s = .next t) :
    t = finish .ok { s with csState := .deselected } ∨ t = signal .csDeassert .deselected s := by
  rcases execDeselect_cases s with ⟨-, e⟩ | ⟨-, e⟩ <;> rw [e] at h <;> cases h
  exacts [.inl rfl, .inr rfl]

theorem execDeselect_captureFrame {s t : State} (h : execDeselect s = .next t) : CaptureFrame s t := by
  rcases execDeselect_end_or_event h with rfl | rfl <;>
    exact ⟨⟨rfl, rfl, rfl, rfl, rfl, rfl⟩, ⟨rfl, rfl⟩, ⟨rfl, rfl⟩, ⟨rfl, rfl, rfl⟩, rfl, rfl, rfl, rfl⟩

/-- Settles O42: CAPTURE changes only its own state before the shared operation that ends a step, and DESELECT only
CS_STATE. -/
theorem captureAndDeselectFrame : Obligations.CaptureAndDeselectFrame := by
  intro s t h
  have hframe : CaptureFrame s t := 
    h.elim (fun h => CaptureShape.captureFrame (capture_shape h)) execDeselect_captureFrame
  obtain ⟨⟨htmem, hlmem, hlast, hcur, hcfg, hovr⟩, ⟨hres, hwritten⟩, ⟨hcount, hti⟩, ⟨hok, hbad, hunk⟩, hloc, hrmw, hin,
    hdraws⟩ := hframe
  refine ⟨hcfg, hlast, hcur, hovr, hres, hwritten, hcount, hok, hbad, hunk, hloc, hti, hrmw, htmem, hlmem, hin, hdraws,
    fun h => ?_⟩
  rcases execDeselect_end_or_event h with rfl | rfl <;> exact ⟨rfl, rfl, rfl, rfl, rfl, rfl, rfl, rfl, rfl, rfl, rfl⟩

theorem exec_deselect_start {s : State} (hk : s.pcSeq = .start) :
    exec .deselect s = .next (signal .csDeassert .deselected s) := by
  simp only [exec, execDeselect, hk]

theorem exec_deselect_deselected {s : State} (hk : s.pcSeq = .deselected) :
    exec .deselect s = .next (finish .ok { s with csState := .deselected }) := by
  simp only [exec, execDeselect, hk]

/-- Settles O43: its event from any CS_STATE, then the end; issued, one after the other. -/
theorem deselectReleasesChipSelect : Obligations.DeselectReleasesChipSelect := by
  intro s
  refine ⟨exec_deselect_start, exec_deselect_deselected, fun hb hi => ?_⟩
  have r := running_atStart (i := .deselect) hi
  rw [issued_eq rfl, r.runSteps_succ rfl (exec_deselect_start rfl), (r.signal .csDeassert .deselected).runSteps_succ rfl 
    (exec_deselect_deselected rfl), runSteps_zero, show s = { s with busy := false } by rw [← hb]]
  rfl

end Sys2Proof.Proofs
end

section
/-! PROOFS. The bytes of a frame (R199 to R202): the start marker stored with both its bytes, a byte stored at the cursor, and
the flush at the end marker. -/

namespace Sys2Proof.Proofs

open Sys2Proof Sys2Proof.Machine Sys2Proof.Safety Sys2Proof.Laws

section
variable {s : State}

/-- A store into a buffer with room stores the byte at the cursor and goes on (R202). -/
theorem store_of_room {site : StoreSite} {next : State → StepResult} (room : s.capCursor.toNat < s.cfg.bufCap) :
    store site next s = next (withByte (storeByte site s) s) := by
  rcases store_cases site next s with ⟨hfull, -⟩ | ⟨hpast, -⟩ | ⟨-, e⟩
  · omega
  · omega
  · exact e

/-! ### The head of the stream -/

/-- The same stream: ABUF and the registers that say how far it got (R39, R44 to R46). -/
structure SameStream (s t : State) : Prop extends SameBuffer s t where
  inFrame : t.inFrame = s.inFrame
  len : t.capLen = s.capLen
  remain : t.capRemain = s.capRemain
  prev : t.capPrev = s.capPrev
  cur : t.capCur = s.capCur
  out : t.capOut = s.capOut

theorem sameStream_ask (p : Prim) (k : Point) (s : State) : SameStream s (ask p k s) :=
  ⟨⟨rfl, rfl, rfl⟩, rfl, rfl, rfl, rfl, rfl, rfl⟩

theorem sameStream_signal (p : Prim) (k : Point) (s : State) : SameStream s (signal p k s) :=
  ⟨⟨rfl, rfl, rfl⟩, rfl, rfl, rfl, rfl, rfl, rfl⟩

theorem sameStream_askSink (bytes : List Byte) (k : Point) (s : State) : SameStream s (askSink bytes k s) :=
  ⟨⟨rfl, rfl, rfl⟩, rfl, rfl, rfl, rfl, rfl, rfl⟩

/-- CS_STATE is no part of it (R40). -/
theorem sameStream_csState (c : CsState) (s : State) : SameStream s { s with csState := c } :=
  ⟨⟨rfl, rfl, rfl⟩, rfl, rfl, rfl, rfl, rfl, rfl⟩

theorem SameStream.trans {s u t : State} (h : SameStream s u) (h' : SameStream u t) : SameStream s t :=
  ⟨⟨h'.cfg.trans h.cfg, h'.cursor.trans h.cursor, h'.abuf.trans h.abuf⟩, h'.inFrame.trans h.inFrame, h'.len.trans h.len,
    h'.remain.trans h.remain, h'.prev.trans h.prev, h'.cur.trans h.cur, h'.out.trans h.out⟩

/-- The stream's own step issues a primitive, and changes neither the stream nor CS_STATE. -/
structure StreamKept (s t : State) : Prop extends SameStream s t where
  csState : t.csState = s.csState

/-- The head of the stream pulls a byte while any remain, and else deasserts chip-select (R199, R204). -/
theorem streamNext_goesOn (s : State) : StreamKept s (streamNext s) ∧
    (streamNext s).pcSeq = (if s.capRemain = 0 then .exhausted else .pulled) ∧
    (streamNext s).hist =
      s.hist ++ [if s.capRemain = 0 then ⟨.csDeassert, .ok 0⟩ else ⟨.xfer 0x00, (streamNext s).ans⟩] := by
  rcases streamNext_cases s with ⟨hrem, e⟩ | ⟨hrem, e⟩ <;> rw [e]
  · rw [if_pos hrem, if_pos hrem]
    exact ⟨⟨sameStream_signal .., rfl⟩, rfl, rfl⟩
  · rw [if_neg hrem, if_neg hrem]
    exact ⟨⟨sameStream_ask .., rfl⟩, rfl, rfl⟩

/-! ### The start marker -/

/-- The state after both bytes of the start marker were stored and the frame was opened (R200). -/
def frameOpened (s : State) : State := withByte 0xD8 (withByte 0xFF { s with inFrame := true })

/-- The start marker found with the buffer empty opens the frame, stores both its bytes, and the stream goes on (R199,
R200). -/
theorem examineWindow_of_startMarker (hf : s.inFrame = false) (hprev : s.capPrev = 0xFF) (hcur : s.capCur = 0xD8)
    (hc : s.capCursor = 0) : examineWindow s = .next (streamNext (frameOpened s)) := by
  rcases examineWindow_cases s with ⟨hf', -⟩ | ⟨-, -, -, e⟩ | ⟨-, hwin, -⟩
  · rw [hf] at hf'
    cases hf'
  · have room := room_of_empty (s := { s with inFrame := true }) hc
    have hcursor : (withByte 0xFF { s with inFrame := true }).capCursor.toNat = 1 := by
      rw [withByte_cursor room, hc]
      rfl
    rw [e, store_of_room room, store_of_room]
    · rfl
    · exact hcursor.trans_lt (bufCap_bounds s.cfg).1
  · exact absurd ⟨hprev, hcur⟩ hwin

/-- An empty buffer then holds the two bytes of the start marker (R200). -/
theorem frameOpened_buffer (hc : s.capCursor = 0) :
    (frameOpened s).capCursor = 2 ∧ (frameOpened s).abuf = Memory.write (α := Byte) (Memory.write s.abuf 0 0xFF) 1 0xD8 := by
  simp [frameOpened, withByte, hc]

end

/-- Settles O37: the stream goes on from the opened frame, whose buffer holds the marker at 0 and 1. -/
theorem captureStartsFrame : Obligations.CaptureStartsFrame := by
  intro s v hk ha hf hcur hv hc
  have hexec : exec .capture s = .next (streamNext (frameOpened (slideWindow (v.setWidth 8) s))) :=
    (execCapture_pulled hk ha).trans (examineWindow_of_startMarker hf hcur hv hc)
  obtain ⟨hcursor, habuf⟩ := frameOpened_buffer (s := slideWindow (v.setWidth 8) s) hc
  obtain ⟨hkept, hpoint, hhist⟩ := streamNext_goesOn (frameOpened (slideWindow (v.setWidth 8) s))
  have hlast : (frameOpened (slideWindow (v.setWidth 8) s)).capRemain = 0 ↔ s.capRemain = 1 := sub_eq_zero
  simp only [hlast] at hpoint hhist
  refine ⟨_, hexec, ?_⟩
  rw [hkept.abuf, habuf]
  refine ⟨hkept.inFrame, hkept.cursor.trans hcursor, hkept.remain, hkept.prev.trans hcur, hkept.cur.trans hv, ?_, ?_,
    fun a ha => ?_, hpoint, _, hhist, ?_⟩
  · rw [read_write_other _ _ (by decide), read_write_same]
  · rw [read_write_same]
  · rw [read_write_other _ _ (by omega), read_write_other _ _ (by omega)]
    rfl
  · split <;> rfl

/-! ### A byte of the frame -/

/-- After the byte that ends the frame was stored, all the bytes of the buffer are flushed (R201). -/
theorem afterData_of_endMarker {s : State} {bytes : List Byte} (hprev : s.capPrev = 0xFF) (hcur : s.capCur = 0xD9)
    (hb : Memory.readRange (α := Byte) s.abuf 0 s.capCursor.toNat = .ok bytes) :
    afterData s = .next (askSink bytes .eofFlushed s) := by
  rcases afterData_cases s with ⟨-, -, e⟩ | ⟨hwin, -⟩
  · rw [e, flush, hb]
  · exact absurd ⟨hprev, hcur⟩ hwin

/-- After another byte of the frame was stored, the stream goes on (R191). -/
theorem afterData_of_other {s : State} (hwin : ¬(s.capPrev = 0xFF ∧ s.capCur = 0xD9)) :
    afterData s = .next (streamNext s) := by
  rcases afterData_cases s with ⟨hprev, hcur, -⟩ | ⟨-, e⟩
  · exact absurd ⟨hprev, hcur⟩ hwin
  · exact e

/-- What follows a byte stored keeps the capture engine's registers and ABUF (R199, R201). -/
theorem afterData_kept {s t : State} (h : afterData s = .next t) : StreamKept s t := by
  rcases afterData_cases s with ⟨-, -, e⟩ | ⟨-, e⟩ <;> rw [e] at h
  · rcases flush_cases s.capCursor.toNat .eofFlushed s with ⟨bytes, -, e'⟩ | ⟨i, -, e'⟩ <;> rw [e'] at h <;> cases h
    exact ⟨sameStream_askSink .., rfl⟩
  · cases h
    exact (streamNext_goesOn s).1

/-- What follows a byte of the frame, after it was stored: by the end marker the flush of the whole buffer, else the head of
the stream (R199, R201, R204). -/
theorem afterData_next {s : State} (hs : Filled s) : ∃ t, afterData s = .next t ∧
    (if s.capPrev = 0xFF ∧ s.capCur = 0xD9 then
      ∃ bytes, Memory.readRange (α := Byte) s.abuf 0 s.capCursor.toNat = .ok bytes ∧ t.pcSeq = .eofFlushed ∧
        t.hist = s.hist ++ [⟨.sinkWrite bytes, t.ans⟩]
    else if s.capRemain = 0 then t.pcSeq = .exhausted ∧ t.hist = s.hist ++ [⟨.csDeassert, .ok 0⟩]
    else t.pcSeq = .pulled ∧ t.hist = s.hist ++ [⟨.xfer 0x00, t.ans⟩]) := by
  by_cases hwin : s.capPrev = 0xFF ∧ s.capCur = 0xD9
  · obtain ⟨bytes, hb⟩ := hs.readRange le_rfl
    refine ⟨_, afterData_of_endMarker hwin.1 hwin.2 hb, ?_⟩
    rw [if_pos hwin]
    exact ⟨bytes, hb, rfl, rfl⟩
  · obtain ⟨-, hpoint, hhist⟩ := streamNext_goesOn s
    refine ⟨_, afterData_of_other hwin, ?_⟩
    rw [if_neg hwin, hpoint, hhist]
    split <;> exact ⟨rfl, rfl⟩

/-- Settles O38: the byte is stored at the cursor, which no later part of the step touches, and the end marker decides between
the flush and the stream. -/
theorem captureStoresFrameByte : Obligations.CaptureStoresFrameByte := by
  intro s v hk ha hf hroom hwritten
  have hexec : exec .capture s = afterData (withByte (v.setWidth 8) (slideWindow (v.setWidth 8) s)) :=
    (execCapture_pulled_inFrame hk ha hf).trans (store_of_room hroom)
  have hcursor := withByte_cursor (s := slideWindow (v.setWidth 8) s) hroom (v.setWidth 8)
  have hfilled := Filled.withByte (s := slideWindow (v.setWidth 8) s) ⟨hroom.le, hwritten⟩ hroom (v.setWidth 8)
  have hlast : (withByte (v.setWidth 8) (slideWindow (v.setWidth 8) s)).capRemain = 0 ↔ s.capRemain = 1 := sub_eq_zero
  obtain ⟨t, ht, hnext⟩ := afterData_next hfilled
  have hkept := afterData_kept ht
  rw [hcursor, ← hkept.abuf] at hnext
  simp only [hlast] at hnext
  refine ⟨t, hexec.trans ht, hkept.inFrame.trans hf, ?_, hkept.remain, hkept.prev, hkept.cur, hkept.cfg, hkept.csState,
    hkept.out, ?_, fun a hne => ?_, hnext⟩
  · rw [hkept.cursor, hcursor]
    rfl
  · rw [hkept.abuf]
    exact read_write_same ..
  · rw [hkept.abuf]
    exact read_write_other _ _ hne

end Sys2Proof.Proofs
end

section
/-! PROOFS. The first frame of a byte sequence (R206), read one byte at a time. -/

namespace Sys2Proof.Proofs

open Sys2Proof Sys2Proof.Machine Sys2Proof.Safety Sys2Proof.Laws

/-! ### One byte further -/

/-- One byte more completes the first start marker if the last byte was its first half. -/
theorem fromStartMarker_append_of_none {bs : List Byte} (h : fromStartMarker bs = none) (x : Byte) :
    fromStartMarker (bs ++ [x]) = if bs.getLast? = some 0xFF ∧ x = 0xD8 then some [0xFF, 0xD8] else none := by
  induction bs with
  | nil => simp [fromStartMarker]
  | cons b bs ih =>
    rw [fromStartMarker] at h
    split at h
    · cases h
    · next hb =>
      cases bs with
      | nil => by_cases hw : b = 0xFF ∧ x = 0xD8 <;> simp_all [fromStartMarker]
      | cons c cs =>
        rw [List.cons_append, fromStartMarker, if_neg (by simpa using hb), ih h, List.getLast?_cons_cons]

/-- After its start marker a frame only grows. -/
theorem fromStartMarker_append_of_some {bs f : List Byte} (h : fromStartMarker bs = some f) (x : Byte) :
    fromStartMarker (bs ++ [x]) = some (f ++ [x]) := by
  induction bs with
  | nil => cases h
  | cons b bs ih =>
    rw [fromStartMarker] at h
    rw [List.cons_append, fromStartMarker]
    split at h
    · next hb =>
      cases h
      rw [if_pos]
      · rfl
      · cases bs <;> simp_all
    · next hb =>
      rw [ih h, if_neg]
      cases bs <;> simp_all [fromStartMarker]

/-- One byte more completes the end marker if the last byte was its first half. -/
theorem throughEndMarker_append_of_none {f : List Byte} (h : throughEndMarker f = none) (x : Byte) :
    throughEndMarker (f ++ [x]) = if f.getLast? = some 0xFF ∧ x = 0xD9 then some (f ++ [x]) else none := by
  induction f with
  | nil => simp [throughEndMarker]
  | cons b bs ih =>
    rw [throughEndMarker] at h
    split at h
    · cases h
    · next hb =>
      rw [Option.map_eq_none_iff] at h
      cases bs with
      | nil => by_cases hw : b = 0xFF ∧ x = 0xD9 <;> simp_all [throughEndMarker]
      | cons c cs =>
        rw [List.cons_append, throughEndMarker, if_neg (by simpa using hb), ih h, List.getLast?_cons_cons]
        split <;> rfl

end Sys2Proof.Proofs
end

section
/-! PROOFS. What a capture delivers (R46, R201, R204, R206). The bytes its history pulled and the bytes the sink accepted are
tied to the engine's registers and to ABUF at every program point; at the end they are the first frame, or there is none. -/

namespace Sys2Proof.Proofs

open Sys2Proof Sys2Proof.Machine Sys2Proof.Safety Sys2Proof.Laws

/-- A unit written right after a written range lengthens the range by it (R12, R202). -/
theorem readRange_write_end {α : Type} {m : Memory α} {base n : Nat} {vs : List α}
    (h : Memory.readRange m base n = .ok vs) (v : α) :
    Memory.readRange (Memory.write m (base + n) v) base (n + 1) = .ok (vs ++ [v]) := by
  induction n generalizing base vs with
  | zero =>
    cases h
    simp [Memory.readRange]
  | succ n ih =>
    rw [Memory.readRange] at h
    split at h
    · cases h
    · next w hw =>
      split at h
      · next ws hws =>
        cases h
        have hrest := ih hws
        rw [Nat.add_assoc, Nat.add_comm 1 n] at hrest
        rw [Memory.readRange, read_write_other _ _ (by omega), hw]
        simp only [hrest, List.cons_append]
      · cases h

/-! ### The bytes a history delivered -/

/-- The bytes that an answer to `XFER` delivers (R199). -/
def pulledBy : Answer → List Byte
  | .ok v => [v.setWidth 8]
  | .err => []

/-- The bytes of a sink write that count as accepted by its answer (R46). -/
def acceptedBy (bytes : List Byte) : Answer → List Byte
  | .ok _ => bytes
  | .err => []

/-- The primitives that neither pull a byte nor write to the sink. -/
def movesNoByte : Prim → Bool
  | .xfer _ | .sinkWrite _ => false
  | _ => true

/-- The history of `t` is `base` and then events that pulled the bytes `P` and had the bytes `S` accepted by the sink. -/
def Delivered (base : List Event) (P S : List Byte) (t : State) : Prop :=
  ∃ h, t.hist = base ++ h ∧ pulledBytes h = P ∧ sunkBytes h = S

theorem pulledBytes_append (h h' : List Event) : pulledBytes (h ++ h') = pulledBytes h ++ pulledBytes h' :=
  List.filterMap_append

theorem sunkBytes_append (h h' : List Event) : sunkBytes (h ++ h') = sunkBytes h ++ sunkBytes h' :=
  List.flatMap_append

section
variable {base : List Event} {P S : List Byte} {u t : State} (h : Delivered base P S u)
include h

theorem Delivered.of_hist (hist : t.hist = u.hist) : Delivered base P S t := by
  rw [Delivered, hist]
  exact h

/-- One more event adds the bytes it moved. -/
theorem Delivered.event {e : Event} (hist : t.hist = u.hist ++ [e]) :
    Delivered base (P ++ pulledBytes [e]) (S ++ sunkBytes [e]) t := by
  obtain ⟨h, hu, rfl, rfl⟩ := h
  exact ⟨h ++ [e], by rw [hist, hu, List.append_assoc], pulledBytes_append h [e], sunkBytes_append h [e]⟩

theorem Delivered.quiet {p : Prim} {a : Answer} (hp : movesNoByte p = true) (hist : t.hist = u.hist ++ [⟨p, a⟩]) :
    Delivered base P S t := by
  have he := h.event hist
  cases p with
  | xfer | sinkWrite => cases hp
  | _ => rwa [pulledBytes, sunkBytes, List.filterMap_cons_none rfl, List.filterMap_nil, List.flatMap_singleton,
      List.append_nil, List.append_nil] at he

theorem Delivered.pull {o : Byte} {a : Answer} (hist : t.hist = u.hist ++ [⟨.xfer o, a⟩]) :
    Delivered base (P ++ pulledBy a) S t := by
  have he := h.event hist
  cases a <;> simpa [pulledBytes, sunkBytes, pulledBy] using he

theorem Delivered.sink {bytes : List Byte} {a : Answer} (hist : t.hist = u.hist ++ [⟨.sinkWrite bytes, a⟩]) :
    Delivered base P (S ++ acceptedBy bytes a) t := by
  have he := h.event hist
  cases a <;> simpa [pulledBytes, sunkBytes, acceptedBy] using he

end

/-! ### The stages of a capture -/

/-- The program points before the burst is opened (R194 to R196). -/
def setupPoint : Point → Bool
  | .armClear | .armStart | .polled | .size1 | .size2 | .size3 => true
  | _ => false

/-- Before the burst is opened every step awaits a bus primitive (R194 to R196). -/
theorem awaitedPrim_of_setupPoint {k : Point} (h : setupPoint k = true) : (awaitedPrim k).isSome = true := by
  cases k with
  | armClear | armStart | polled | size1 | size2 | size3 => rfl
  | _ => cases h

/-- The session's registers as SESSION_INIT left them, as far as the stream needs them (R193). -/
structure Fresh (u : State) : Prop where
  out : u.capOut = 0
  inFrame : u.inFrame = false
  cur : u.capCur = 0
  cursor : u.capCursor = 0

/-- No start marker was pulled so far (R199, R200). -/
structure BeforeFrame (P S : List Byte) (u : State) : Prop where
  inFrame : u.inFrame = false
  unmarked : fromStartMarker P = none
  cur : u.capCur = P.getLast?.getD 0
  sunk : S = []
  cursor : u.capCursor = 0

/-- ABUF holds `buffered` below the cursor, and a frame is under way that consists of the bytes in the sink, then these, then
`rest` (R201, R202). -/
structure FrameSoFar (P S buffered rest : List Byte) (u : State) : Prop where
  inFrame : u.inFrame = true
  frame : fromStartMarker P = some (S ++ buffered ++ rest)
  unended : throughEndMarker (S ++ buffered) = none
  buffer : Memory.readRange (α := Byte) u.abuf 0 u.capCursor.toNat = .ok buffered

/-- CAP_OUT counts the bytes in the sink, and CAP_REMAIN those not pulled (R44, R46). -/
structure Counted (P S : List Byte) (u : State) : Prop where
  out : u.capOut = BitVec.ofNat 32 S.length
  remain : P.length + u.capRemain.toNat = u.capLen.toNat

/-- Every byte pulled has been examined: the frame has not begun, or all its bytes are in the sink and in ABUF. -/
structure Examined (P S : List Byte) (u : State) : Prop where
  counted : Counted P S u
  frame : BeforeFrame P S u ∨
    ∃ buffered, FrameSoFar P S buffered [] u ∧ (S ++ buffered).getLast? = some u.capCur

/-- The last byte pulled is a byte of the frame, and not stored yet (R202). -/
structure Pending (P S buffered : List Byte) (u : State) : Prop where
  counted : Counted P S u
  frame : FrameSoFar P S buffered [u.capCur] u
  prev : (S ++ buffered).getLast? = some u.capPrev

section
variable {P S buffered rest : List Byte} {u t : State} (e : SameStream u t)
include e

theorem SameStream.counted (h : Counted P S u) : Counted P S t := ⟨e.out ▸ h.out, by rw [e.remain, e.len, h.remain]⟩

theorem SameStream.beforeFrame (h : BeforeFrame P S u) : BeforeFrame P S t :=
  ⟨e.inFrame ▸ h.inFrame, h.unmarked, e.cur ▸ h.cur, h.sunk, e.cursor ▸ h.cursor⟩

theorem SameStream.frameSoFar (h : FrameSoFar P S buffered rest u) : FrameSoFar P S buffered rest t :=
  ⟨e.inFrame ▸ h.inFrame, h.frame, h.unended, by rw [e.abuf, e.cursor, h.buffer]⟩

theorem SameStream.examined (h : Examined P S u) : Examined P S t where
  counted := e.counted h.counted
  frame := h.frame.imp e.beforeFrame fun ⟨buffered, hf, hl⟩ => ⟨buffered, e.frameSoFar hf, e.cur ▸ hl⟩

theorem SameStream.pending (h : Pending P S buffered u) : Pending P S buffered t :=
  ⟨e.counted h.counted, e.frameSoFar (e.cur ▸ h.frame), e.prev ▸ h.prev⟩

end

/-- Where a capture stands, by its program point: `P` are the bytes pulled and `S` those the sink accepted. The event issued
last is in both; what the engine does upon its answer is the next step's. -/
inductive Stage (P S : List Byte) (t : State) : Prop
  | start (point : t.pcSeq = .start) (released : t.csState = .deselected) (pulled : P = []) (sunk : S = [])
  | setup (point : setupPoint t.pcSeq = true) (fresh : Fresh t) (pulled : P = []) (sunk : S = [])
  | opening (point : t.pcSeq = .csAsserted ∨ t.pcSeq = .burstOpen) (examined : Examined P S t)
  | pulling (point : t.pcSeq = .pulled) (P' : List Byte) (examined : Examined P' S t) (left : t.capRemain ≠ 0)
      (pulled : P = P' ++ pulledBy t.ans)
  | rotating (point : t.pcSeq = .rotDeasserted .data) (full : t.capCursor.toNat = t.cfg.bufCap) (buffered : List Byte)
      (pending : Pending P S buffered t)
  | rotFlushing (point : t.pcSeq = .rotFlushed .data) (full : t.capCursor.toNat = t.cfg.bufCap) (S' buffered : List Byte)
      (pending : Pending P S' buffered t) (sunk : S = S' ++ acceptedBy buffered t.ans)
  | rotEmptied (point : t.pcSeq = .rotAsserted .data ∨ t.pcSeq = .rotBurst .data) (empty : t.capCursor = 0)
      (pending : Pending P S [] t)
  | endFlushing (point : t.pcSeq = .eofFlushed) (S' bytes : List Byte) (frame : firstFrame P = some (S' ++ bytes))
      (out : t.capOut = BitVec.ofNat 32 S'.length) (cursor : t.capCursor.toNat = bytes.length)
      (sunk : S = S' ++ acceptedBy bytes t.ans)
  | ending (point : t.pcSeq = .eofDeasserted) (frame : firstFrame P = some S)
      (out : t.capOut = BitVec.ofNat 32 S.length)
  | exhausted (point : t.pcSeq = .exhausted) (noFrame : firstFrame P = none)
      (out : t.capOut = BitVec.ofNat 32 S.length) (all : P.length = t.capLen.toNat)

/-- What the end of a capture leaves (R201, R204, R206). -/
structure Ended (P S : List Byte) (t : State) : Prop where
  idle : t.busy = false
  out : t.capOut = BitVec.ofNat 32 S.length
  ok : t.err = .ok → firstFrame P = some S ∧ t.capState = .done ∧ t.csState = .deselected
  incomplete : t.err = .incompleteFrame →
    firstFrame P = none ∧ t.capState = .idle ∧ t.csState = .deselected ∧ P.length = t.capLen.toNat

/-- Where a step of a capture may lead. -/
def Leads (base : List Event) (t : State) : Prop :=
  ∃ P S, Delivered base P S t ∧ (Ended P S t ∨ Stage P S t)

section
variable {base : List Event} {P S buffered : List Byte} {s u t : State}

theorem Leads.stage (hd : Delivered base P S t) (h : Stage P S t) : Leads base t := ⟨P, S, hd, .inr h⟩

theorem Leads.ended (hd : Delivered base P S t) (h : Ended P S t) : Leads base t := ⟨P, S, hd, .inl h⟩

/-- An error exit other than INCOMPLETE_FRAME says nothing of the frame (R205). -/
theorem leads_fail {e : ErrCode} (prim : PrimCode) (hok : e ≠ .ok) (hinc : e ≠ .incompleteFrame)
    (hd : Delivered base P S u) (out : u.capOut = BitVec.ofNat 32 S.length) : Leads base (captureFail e prim u) :=
  .ended (hd.of_hist rfl) ⟨rfl, out, fun h => absurd h hok, fun h => absurd h hinc⟩

/-! ### The stages before the stream -/

/-- Before the burst is opened a bus primitive keeps the stage (R194 to R196). -/
theorem leads_setup {p : Prim} {k : Point} (hp : movesNoByte p = true) (hk : setupPoint k = true)
    (hd : Delivered base [] [] u) (h : Fresh u) : Leads base (ask p k u) :=
  .stage (hd.quiet hp (ask_hist ..)) (.setup hk ⟨h.out, h.inFrame, h.cur, h.cursor⟩ rfl rfl)

theorem leads_pollAgain (hd : Delivered base [] [] u) (h : Fresh u) : Leads base (pollAgain u) := by
  rcases pollAgain_cases u with ⟨-, e⟩ | ⟨-, -, e⟩ | ⟨-, -, e⟩ <;> rw [e]
  · exact leads_fail .none nofun nofun hd h.out
  · exact leads_fail .none nofun nofun hd h.out
  · exact leads_setup rfl rfl (hd.of_hist rfl) ⟨h.out, h.inFrame, h.cur, h.cursor⟩

theorem leads_openBurst (hd : Delivered base [] [] u) (h : Fresh u) : Leads base (openBurst u) := by
  rcases openBurst_cases u with ⟨-, e⟩ | ⟨-, -, e⟩ | ⟨-, -, e⟩ <;> rw [e]
  · exact leads_fail .none nofun nofun hd h.out
  · exact leads_fail .none nofun nofun hd h.out
  · refine .stage (hd.quiet rfl rfl) (.opening (.inl rfl) ⟨⟨h.out, ?_⟩, .inl ⟨h.inFrame, rfl, h.cur, rfl, h.cursor⟩⟩)
    exact Nat.zero_add _

/-! ### The stream -/

/-- From the start marker on, only the end marker is missing to a frame (R206). -/
theorem firstFrame_of_frame {f : List Byte} (h : fromStartMarker P = some f) : firstFrame P = throughEndMarker f := by
  rw [firstFrame, h, Option.bind_some]

theorem Examined.noFrame (h : Examined P S u) : firstFrame P = none := by
  rcases h.frame with hb | ⟨buffered, hf, -⟩
  · rw [firstFrame, hb.unmarked, Option.bind_none]
  · rw [firstFrame_of_frame hf.frame, List.append_nil, hf.unended]

/-- With every byte examined, the head of the stream pulls the next one or ends without a frame (R199, R204). -/
theorem Examined.leads_streamNext (h : Examined P S u) (hd : Delivered base P S u) : Leads base (streamNext u) := by
  rcases streamNext_cases u with ⟨hrem, e⟩ | ⟨hrem, e⟩ <;> rw [e]
  · refine .stage (hd.quiet rfl rfl) (.exhausted rfl h.noFrame h.counted.out ?_)
    have := h.counted.remain
    rw [hrem] at this
    exact this
  · exact .stage (hd.pull rfl) (.pulling rfl P ((sameStream_ask ..).examined h) hrem rfl)

/-- The byte pending is stored behind the bytes of the buffer (R202). -/
theorem Pending.buffer_withByte (h : Pending P S buffered u) (room : u.capCursor.toNat < u.cfg.bufCap) :
    Memory.readRange (α := Byte) (withByte u.capCur u).abuf 0 (withByte u.capCur u).capCursor.toNat =
      .ok (buffered ++ [u.capCur]) := by
  have hw := readRange_write_end h.frame.buffer u.capCur
  rw [Nat.zero_add] at hw
  rw [withByte_cursor room]
  exact hw

/-- With the byte pending stored, the end marker decides between the flush of the buffer and the stream (R199, R201). -/
theorem Pending.leads_afterData (h : Pending P S buffered u) (room : u.capCursor.toNat < u.cfg.bufCap)
    (hd : Delivered base P S u) : Allows (Leads base) (afterData (withByte u.capCur u)) := by
  have hb := h.buffer_withByte room
  have hend := throughEndMarker_append_of_none h.frame.unended u.capCur
  simp only [h.prev, Option.some_inj] at hend
  by_cases hwin : u.capPrev = 0xFF ∧ u.capCur = 0xD9
  · rw [if_pos hwin, ← firstFrame_of_frame h.frame.frame, List.append_assoc] at hend
    rw [afterData_of_endMarker (s := withByte u.capCur u) hwin.1 hwin.2 hb]
    exact .stage (hd.sink rfl) (.endFlushing rfl S _ hend h.counted.out (readRange_inv hb).1.symm rfl)
  · rw [if_neg hwin, List.append_assoc] at hend
    rw [afterData_of_other (s := withByte u.capCur u) hwin]
    refine Examined.leads_streamNext (P := P) (S := S)
      ⟨⟨h.counted.out, h.counted.remain⟩, .inr ⟨buffered ++ [u.capCur], ?_, ?_⟩⟩ (hd.of_hist rfl)
    · exact ⟨h.frame.inFrame, by simpa using h.frame.frame, hend, hb⟩
    · rw [← List.append_assoc, List.getLast?_concat]
      rfl

/-- A byte pending is stored, or into a full buffer begins a rotation (R202, R203). -/
theorem Pending.leads_store (h : Pending P S buffered u) (hd : Delivered base P S u) :
    Allows (Leads base) (store .data afterData u) := by
  rcases store_cases .data afterData u with ⟨hfull, e⟩ | ⟨-, e⟩ | ⟨room, e⟩ <;> rw [e]
  · exact .stage (hd.quiet rfl rfl) (.rotating rfl hfull buffered ((sameStream_signal ..).pending h))
  · trivial
  · exact h.leads_afterData room hd

/-! ### A byte pulled -/

/-- A byte pulled is one that remained (R199). -/
theorem Counted.pull (h : Counted P S s) (left : s.capRemain ≠ 0) (x : Byte) :
    Counted (P ++ [x]) S (slideWindow x s) where
  out := h.out
  remain := by
    have hr := h.remain
    have hsub : (slideWindow x s).capRemain.toNat = s.capRemain.toNat - 1 := by
      rw [slideWindow_capRemain]
      bv_omega
    have hpos : s.capRemain.toNat ≠ 0 := fun hz => left (BitVec.eq_of_toNat_eq hz)
    rw [slideWindow_capLen, List.length_append, List.length_singleton]
    omega

/-- Inside a frame the byte pulled is the frame's next (R199). -/
theorem FrameSoFar.pull (h : FrameSoFar P S buffered [] s) (hl : (S ++ buffered).getLast? = some s.capCur)
    (hc : Counted P S s) (left : s.capRemain ≠ 0) (x : Byte) : Pending (P ++ [x]) S buffered (slideWindow x s) where
  counted := hc.pull left x
  frame := {
    inFrame := h.inFrame
    frame := by simpa using fromStartMarker_append_of_some h.frame x
    unended := h.unended
    buffer := h.buffer }
  prev := hl

/-- The byte that completes the start marker opens the frame with both marker bytes in the buffer (R200). -/
theorem BeforeFrame.frameOpened (h : BeforeFrame P S s) (hc : Counted P S s) (left : s.capRemain ≠ 0)
    (hcur : s.capCur = 0xFF) : Examined (P ++ [0xD8]) S (frameOpened (slideWindow 0xD8 s)) := by
  have hlast : P.getLast? = some 0xFF := by
    have hcur' := h.cur
    rw [hcur] at hcur'
    cases hp : P.getLast? with
    | none => rw [hp] at hcur'; cases hcur'
    | some b => rw [hp] at hcur'; rw [hcur']; rfl
  have hframe := fromStartMarker_append_of_none h.unmarked 0xD8
  rw [if_pos ⟨hlast, rfl⟩] at hframe
  obtain ⟨hcursor, habuf⟩ := frameOpened_buffer (s := slideWindow 0xD8 s) h.cursor
  have hcounted := hc.pull left 0xD8
  obtain rfl := h.sunk
  refine ⟨⟨hcounted.out, hcounted.remain⟩, .inr ⟨[0xFF, 0xD8], ⟨rfl, hframe, by decide, ?_⟩, rfl⟩⟩
  rw [hcursor, habuf]
  simp [Memory.readRange, read_write]

/-- Any other byte outside a frame leaves the stream before it (R199). -/
theorem BeforeFrame.pull (h : BeforeFrame P S s) {x : Byte} (hwin : ¬(s.capCur = 0xFF ∧ x = 0xD8)) :
    BeforeFrame (P ++ [x]) S (slideWindow x s) where
  inFrame := h.inFrame
  unmarked := by
    rw [fromStartMarker_append_of_none h.unmarked, if_neg]
    rintro ⟨hl, hx⟩
    exact hwin ⟨by rw [h.cur, hl]; rfl, hx⟩
  cur := by rw [List.getLast?_concat]; rfl
  sunk := h.sunk
  cursor := h.cursor

/-- A byte pulled is examined (R199, R200). -/
theorem Examined.leads_examineWindow (h : Examined P S s) (left : s.capRemain ≠ 0) {x : Byte}
    (hd : Delivered base (P ++ [x]) S s) : Allows (Leads base) (examineWindow (slideWindow x s)) := by
  have hd' : Delivered base (P ++ [x]) S (slideWindow x s) := hd.of_hist rfl
  rcases h.frame with hb | ⟨buffered, hf, hl⟩
  · by_cases hwin : s.capCur = 0xFF ∧ x = 0xD8
    · obtain ⟨hcur, rfl⟩ := hwin
      rw [examineWindow_of_startMarker (s := slideWindow 0xD8 s) hb.inFrame hcur rfl hb.cursor]
      exact (hb.frameOpened h.counted left hcur).leads_streamNext (hd'.of_hist rfl)
    · rw [examineWindow_passes (s := slideWindow x s) hb.inFrame hwin]
      exact Examined.leads_streamNext ⟨h.counted.pull left x, .inl (hb.pull hwin)⟩ hd'
  · rcases examineWindow_cases (slideWindow x s) with ⟨-, e⟩ | ⟨hf', -⟩ | ⟨hf', -⟩
    · rw [e]
      exact (hf.pull hl h.counted left x).leads_store hd'
    · exact absurd (hf.inFrame.symm.trans hf') nofun
    · exact absurd (hf.inFrame.symm.trans hf') nofun

/-! ### A step at each stage -/

/-- A primitive answered `Err`, on a bus or at the sink, ends the capture (R205). -/
theorem leads_execCapture_of_err (ha : s.ans = .err)
    (hk : (awaitedPrim s.pcSeq).isSome = true ∨ sinkPoint s.pcSeq = true) (hd : Delivered base P S s)
    (out : s.capOut = BitVec.ofNat 32 S.length) : Allows (Leads base) (execCapture s) := by
  rcases hk with hk | hk
  · obtain ⟨prim, hprim⟩ := Option.isSome_iff_exists.1 hk
    rw [execCapture_busError hprim ha]
    exact leads_fail prim nofun nofun hd out
  · rw [execCapture_sinkError hk ha]
    exact leads_fail (u := { s with csState := .unknown }) .sinkWrite nofun nofun (hd.of_hist rfl) out

/-- Arming, polling and reading the length move no byte (R194 to R197). -/
theorem Fresh.leads_execCapture (h : Fresh s) (hk : setupPoint s.pcSeq = true) (hd : Delivered base [] [] s) :
    Allows (Leads base) (execCapture s) := by
  obtain ⟨out, inFrame, cur, cursor⟩ := h
  cases ha : s.ans with
  | err => exact leads_execCapture_of_err ha (.inl (awaitedPrim_of_setupPoint hk)) hd out
  | ok v =>
    cases hp : s.pcSeq with
    | armClear =>
      rw [execCapture_armClear hp ha]
      exact leads_setup rfl rfl hd ⟨out, inFrame, cur, cursor⟩
    | armStart =>
      rw [execCapture_armStart hp ha]
      exact leads_pollAgain (hd.of_hist rfl) ⟨out, inFrame, cur, cursor⟩
    | polled =>
      by_cases hdone : v.setWidth 8 &&& s.cfg.maskCapDone = 0
      · rw [execCapture_polled_again hp ha hdone]
        exact leads_pollAgain hd ⟨out, inFrame, cur, cursor⟩
      · rw [execCapture_polled_done hp ha hdone]
        exact leads_setup rfl rfl (hd.of_hist rfl) ⟨out, inFrame, cur, cursor⟩
    | size1 =>
      rw [execCapture_size1 hp ha]
      exact leads_setup rfl rfl (hd.of_hist rfl) ⟨out, inFrame, cur, cursor⟩
    | size2 =>
      rw [execCapture_size2 hp ha]
      exact leads_setup rfl rfl (hd.of_hist rfl) ⟨out, inFrame, cur, cursor⟩
    | size3 =>
      rw [execCapture_size3 hp ha]
      exact leads_openBurst (hd.of_hist rfl) ⟨out, inFrame, cur, cursor⟩
    | _ =>
      rw [hp] at hk
      cases hk

/-- The burst is opened, and then the stream begins (R198). -/
theorem Examined.leads_opening (h : Examined P S s) (hk : s.pcSeq = .csAsserted ∨ s.pcSeq = .burstOpen)
    (hd : Delivered base P S s) : Allows (Leads base) (execCapture s) := by
  rcases hk with hk | hk
  · rw [execCapture_csAsserted hk]
    have same := (sameStream_csState .asserted s).trans (sameStream_ask .burstBegin .burstOpen _)
    exact .stage (hd.quiet rfl rfl) (.opening (.inr rfl) (same.examined h))
  · cases ha : s.ans with
    | err => exact leads_execCapture_of_err ha (.inl (by rw [hk]; rfl)) hd h.counted.out
    | ok v =>
      rw [execCapture_burstOpen hk ha]
      exact h.leads_streamNext hd

/-- The rotation's flush answered `Ok` moves the buffered bytes of the frame into the sink (R203). -/
theorem Pending.flushed (h : Pending P S buffered s) (full : s.capCursor.toNat = s.cfg.bufCap) :
    Pending P (S ++ buffered) [] (signal .csAssert (.rotAsserted .data)
      { s with capOut := s.capOut + BitVec.ofNat 32 s.cfg.bufCap, capCursor := 0 }) where
  counted := {
    out := by
      rw [signal_capOut, List.length_append, (readRange_inv h.frame.buffer).1, full, BitVec.ofNat_add, ← h.counted.out]
    remain := h.counted.remain }
  frame := {
    inFrame := h.frame.inFrame
    frame := by simpa using h.frame.frame
    unended := by simpa using h.frame.unended
    buffer := rfl }
  prev := by simpa using h.prev

/-- A rotation with the buffer emptied re-opens the burst, and then the byte pending is stored (R202, R203). -/
theorem Pending.leads_rotEmptied (h : Pending P S [] s) (hc : s.capCursor = 0)
    (hk : s.pcSeq = .rotAsserted .data ∨ s.pcSeq = .rotBurst .data) (hd : Delivered base P S s) :
    Allows (Leads base) (execCapture s) := by
  rcases hk with hk | hk
  · rw [execCapture_rotAsserted hk]
    have same := (sameStream_csState .asserted s).trans (sameStream_ask .burstBegin (.rotBurst .data) _)
    exact .stage (hd.quiet rfl rfl) (.rotEmptied (.inr rfl) hc (same.pending h))
  · cases ha : s.ans with
    | err => exact leads_execCapture_of_err ha (.inl (by rw [hk]; rfl)) hd h.counted.out
    | ok v =>
      rw [execCapture_rotBurst_data hk ha hc]
      exact h.leads_afterData (room_of_empty hc) hd

/-- From every stage a step of the capture leads to a stage or to its end. -/
theorem Stage.leads_execCapture (h : Stage P S s) (hd : Delivered base P S s) : Allows (Leads base) (execCapture s) := by
  cases h with
  | start hk released pulled sunk =>
    subst pulled sunk
    rw [execCapture_start hk released]
    exact leads_setup rfl rfl (hd.of_hist rfl) ⟨rfl, rfl, rfl, rfl⟩
  | setup hk fresh pulled sunk =>
    subst pulled sunk
    exact fresh.leads_execCapture hk hd
  | opening hk examined => exact examined.leads_opening hk hd
  | pulling hk P' examined left pulled =>
    subst pulled
    cases ha : s.ans with
    | err => exact leads_execCapture_of_err ha (.inl (by rw [hk]; rfl)) hd examined.counted.out
    | ok v =>
      rw [execCapture_pulled hk ha]
      rw [ha] at hd
      exact examined.leads_examineWindow left hd
  | rotating hk full buffered pending =>
    rw [execCapture_rotDeasserted hk (full ▸ pending.frame.buffer)]
    have same := (sameStream_csState .deselected s).trans (sameStream_askSink buffered (.rotFlushed .data) _)
    exact .stage (hd.sink rfl) (.rotFlushing rfl full S buffered (same.pending pending) rfl)
  | rotFlushing hk full S' buffered pending sunk =>
    subst sunk
    cases ha : s.ans with
    | err =>
      rw [ha, acceptedBy, List.append_nil] at hd
      exact leads_execCapture_of_err ha (.inr (by rw [hk]; rfl)) hd pending.counted.out
    | ok v =>
      rw [execCapture_rotFlushed hk ha]
      rw [ha] at hd
      exact .stage (hd.quiet rfl rfl) (.rotEmptied (.inl rfl) rfl (pending.flushed full))
  | rotEmptied hk empty pending => exact pending.leads_rotEmptied empty hk hd
  | endFlushing hk S' bytes frame out cursor sunk =>
    subst sunk
    cases ha : s.ans with
    | err =>
      rw [ha, acceptedBy, List.append_nil] at hd
      exact leads_execCapture_of_err ha (.inr (by rw [hk]; rfl)) hd out
    | ok v =>
      rw [execCapture_eofFlushed hk ha]
      rw [ha] at hd
      refine .stage (hd.quiet rfl rfl) (.ending rfl frame ?_)
      rw [signal_capOut, acceptedBy, List.length_append, BitVec.ofNat_add, ← out, ← cursor, BitVec.ofNat_toNat,
        BitVec.setWidth_eq]
  | ending hk frame out =>
    rw [execCapture_eofDeasserted hk]
    exact .ended (hd.of_hist rfl) ⟨rfl, out, fun _ => ⟨frame, rfl, rfl⟩, nofun⟩
  | exhausted hk noFrame out all =>
    rw [execCapture_exhausted hk]
    exact .ended (hd.of_hist rfl) ⟨rfl, out, nofun, fun _ => ⟨noFrame, rfl, rfl, all⟩⟩

/-- A capture at a stage stands at one of its program points. -/
theorem Stage.point_ne_idle (h : Stage P S t) : t.pcSeq ≠ .idle := by
  cases h with
  | opening hk | rotEmptied hk => rcases hk with hk | hk <;> rw [hk] <;> nofun
  | setup hk =>
    intro hi
    rw [hi] at hk
    cases hk
  | start hk | pulling hk | rotating hk | rotFlushing hk | endFlushing hk | ending hk | exhausted hk => rw [hk]; nofun

end

/-! ### Runs of a capture -/

/-- What every step keeps, every run keeps. -/
theorem runSteps_preserves {I : State → Prop} (hstep : ∀ s t, I s → step s = .next t → I t) {n : Nat} {s t : State}
    (hs : I s) (h : runSteps n s = .next t) : I t := by
  induction n generalizing s with
  | zero =>
    cases h
    exact hs
  | succ n ih =>
    cases hu : step s with
    | next u => exact ih (hstep s u hs hu) (runSteps_next hu n ▸ h)
    | fault r => rw [runSteps_fault hu] at h; cases h
    | refused r => rw [runSteps_refused hu] at h; cases h

/-- A capture issued with the history `base` is at one of its stages, or has ended; no host action is scheduled. -/
def CaptureUnderWay (base : List Event) (t : State) : Prop :=
  t.inputs = [] ∧ ∃ P S, Delivered base P S t ∧ (Ended P S t ∨ Running .capture t ∧ Stage P S t)

theorem captureUnderWay_step (base : List Event) (s t : State) (hs : CaptureUnderWay base s) (h : step s = .next t) :
    CaptureUnderWay base t := by
  obtain ⟨hin, P, S, hd, hended | ⟨hrun, hstage⟩⟩ := hs
  · rw [step_of_inputs_nil hin, seqStep_of_idle hended.idle] at h
    cases h
    exact ⟨hin, P, S, hd, .inl hended⟩
  · rw [hrun.step_eq_exec rfl] at h
    have hframe := CaptureShape.captureFrame (capture_shape h)
    have hin' : t.inputs = [] := hframe.inputs.trans hin
    obtain ⟨P', S', hd', hended' | hstage'⟩ := (hstage.leads_execCapture hd).of_next h
    · exact ⟨hin', P', S', hd', .inl hended'⟩
    · refine ⟨hin', P', S', hd', .inr ⟨⟨?_, hin', hframe.curCmd.trans hrun.curCmd⟩, hstage'⟩⟩
      rcases onePrimitivePerStep .capture s t h with ⟨-, -, hidle⟩ | ⟨e, -, hbusy, -⟩
      · exact absurd hidle hstage'.point_ne_idle
      · exact hbusy.trans hrun.busy

/-- Settles O44: issued, the capture is at its first stage; every step leads to a stage or to the end, and the run that is
idle again is at the end. -/
theorem captureDeliversFirstFrame : Obligations.CaptureDeliversFirstFrame := by
  intro s t n _ hin hcs hrun hidle
  have hstart : CaptureUnderWay s.hist (issued .capture s) := by
    rw [issued_eq rfl]
    exact ⟨hin, [], [], ⟨[], (List.append_nil _).symm, rfl, rfl⟩, .inr ⟨running_atStart hin, .start rfl hcs rfl rfl⟩⟩
  obtain ⟨-, P, S, ⟨h, hhist, rfl, rfl⟩, hended | ⟨hbusy, -⟩⟩ :=
    runSteps_preserves (captureUnderWay_step s.hist) hstart hrun
  · exact ⟨h, hhist, hended.out, hended.ok, hended.incomplete⟩
  · rw [hbusy.busy] at hidle
    cases hidle

end Sys2Proof.Proofs
end

section
/-! PROOFS. The commands of the NMEA decoder: what they make of their range (R240, R295), the end of NMEA.LINE (R258), and that
decoding the same line again changes nothing (R259). -/

namespace Sys2Proof.Proofs

open Sys2Proof Sys2Proof.Machine Sys2Proof.Safety Sys2Proof.Laws

/-! ### The range of a command (R240, R295) -/

section
variable {lbase llen : Half} {s : State} {next : List Byte → StepResult}

theorem withBuffer_of_past (h : s.cfg.lmemBytes < lbase.toNat + llen.toNat) :
    withBuffer lbase llen s next = .next (raise .rangeError .none 0 s) := if_pos h

theorem withBuffer_of_error {k : Nat} (hr : lbase.toNat + llen.toNat ≤ s.cfg.lmemBytes)
    (hk : Memory.readRange (α := Byte) s.lmem lbase.toNat llen.toNat = .error k) :
    withBuffer lbase llen s next = .fault (.unwrittenLmem k) := by
  rw [withBuffer, if_neg (not_lt.2 hr), hk]

theorem withBuffer_of_ok {buffer : List Byte} (hr : lbase.toNat + llen.toNat ≤ s.cfg.lmemBytes)
    (hb : Memory.readRange (α := Byte) s.lmem lbase.toNat llen.toNat = .ok buffer) :
    withBuffer lbase llen s next = next buffer := by
  rw [withBuffer, if_neg (not_lt.2 hr), hb]

end

/-- Both NMEA commands take their bytes by `NMEA_OPERANDS()` (R240). -/
theorem exec_nmea_eq_withBuffer {lbase llen : Half} {i : Instr} (hi : i ∈ [.nmeaLine lbase llen, .nmeaBuf lbase llen])
    (s : State) : ∃ next, exec i s = withBuffer lbase llen s next := by
  simp only [List.mem_cons, List.not_mem_nil, or_false] at hi
  obtain rfl | rfl := hi
  · exact ⟨_, rfl⟩
  · exact ⟨_, rfl⟩

/-- Settles O48: the operands decide before anything of the line is looked at. -/
theorem nmeaRangeIsChecked : Obligations.NmeaRangeIsChecked := by
  intro lbase llen s i hi
  obtain ⟨next, he⟩ := exec_nmea_eq_withBuffer hi s
  rw [he]
  exact ⟨withBuffer_of_past,
    fun k hr hlo hhi hk hwritten => withBuffer_of_error hr (readRange_error _ _ _ k hlo hhi hk hwritten)⟩

/-! ### The end of NMEA.LINE (R255, R258) -/

/-- An update applied to absent registers leaves the update (R255, R256). -/
theorem apply_absent (u : Loc) : u.apply {} = u := by
  simp [Loc.apply]

/-- The line of NMEA.LINE is what stands before the first LF or CR (R241, R258). -/
theorem firstSegment_eq_takeWhile (buffer : List Byte) :
    firstSegment buffer = buffer.takeWhile (fun b => b != 0x0A && b != 0x0D) := by
  simp [firstSegment, isTerminator, bne]

theorem execNmeaLine_of_readRange {lbase llen : Half} {s : State} {buffer : List Byte}
    (hr : lbase.toNat + llen.toNat ≤ s.cfg.lmemBytes)
    (hb : Memory.readRange (α := Byte) s.lmem lbase.toNat llen.toNat = .ok buffer) :
    exec (.nmeaLine lbase llen) s = .next (endLine (decodeLine (firstSegment buffer)) s) :=
  withBuffer_of_ok hr hb

/-- The end with an accepted line: its update alone (R255, R258). -/
theorem endLine_accepted (kind : Kind) (u : Loc) (s : State) :
    endLine (.accepted kind u) s = { s with
      loc := u, nmeaOk := 1, nmeaBad := 0, nmeaUnk := 0, result := lineResult (.accepted kind u), resultWritten := true,
      err := .ok, cancelPending := false, busy := false, pcSeq := .idle } := by
  rw [endLine, countLine, startFold_loc, apply_absent]
  rfl

/-- Settles O45: the command ends with `endLine` of the decoded line, whose outcomes are looked at one by one. -/
theorem nmeaLineReportsOutcome : Obligations.NmeaLineReportsOutcome := by
  intro lbase llen s buffer hr hb line ended
  rw [execNmeaLine_of_readRange hr hb, firstSegment_eq_takeWhile]
  cases decodeLine line with
  | accepted kind u => cases kind <;> exact congrArg _ (endLine_accepted _ u s)
  | _ => rfl

/-! ### The same line again (R259) -/

theorem apply_idem (u l : Loc) : u.apply (u.apply l) = u.apply l := by
  simp [Loc.apply, ← Option.or_assoc]

/-- Ending a command again with the same outcome, after it was taken again, changes nothing (R118, R258). -/
theorem endLine_atStart_endLine (o : LineOutcome) (i : Instr) (s : State) :
    endLine o (atStart i (endLine o (atStart i s))) = endLine o (atStart i s) := by
  cases o <;> rfl

/-- NMEA.LINE taken again after its end answers the same state: it reads the same bytes, which give the same outcome. -/
theorem execNmeaLine_again {lbase llen : Half} {s t : State}
    (h : exec (.nmeaLine lbase llen) (atStart (.nmeaLine lbase llen) s) = .next t) :
    exec (.nmeaLine lbase llen) (atStart (.nmeaLine lbase llen) t) = .next t := by
  have hkept := exec_hostSideKept h
  have hcfg : (atStart (.nmeaLine lbase llen) t).cfg = _ := hkept.cfg
  have hlmem : (atStart (.nmeaLine lbase llen) t).lmem = _ := hkept.lmem
  rcases withBuffer_cases lbase llen (atStart (.nmeaLine lbase llen) s)
      (fun buffer => .next (endLine (decodeLine (firstSegment buffer)) (atStart (.nmeaLine lbase llen) s))) with
    ⟨hpast, he⟩ | ⟨k, -, -, he⟩ | ⟨buffer, hr, hb, he⟩ <;> cases he.symm.trans h
  · exact withBuffer_of_past hpast
  · rw [← hcfg] at hr
    rw [← hlmem] at hb
    rw [execNmeaLine_of_readRange hr hb, endLine_atStart_endLine]

/-- NMEA.LINE ends in its one step and leaves the schedule alone (R258). -/
theorem execNmeaLine_ends {lbase llen : Half} {s t : State} (h : exec (.nmeaLine lbase llen) s = .next t) :
    t.busy = false ∧ t.inputs = s.inputs := by
  rcases nmeaLine_shape h with rfl | ⟨u, e, hu, rfl⟩
  · exact ⟨rfl, rfl⟩
  · unfold DecoderOnly at hu
    exact ⟨rfl, by rw [hu]; rfl⟩

theorem runSteps_one (s : State) : runSteps 1 s = step s := by
  cases h : step s with
  | next t => exact runSteps_next h 0
  | fault r => exact runSteps_fault h 0
  | refused r => exact runSteps_refused h 0

/-- Settles O51: the second run's one step answers the first run's last state, which is idle and stays. -/
theorem decodingTwiceIsDecodingOnce : Obligations.DecodingTwiceIsDecodingOnce := by
  refine ⟨apply_idem, fun lbase llen s t n _ hin hrun => ?_⟩
  have hexec : exec (.nmeaLine lbase llen) (atStart (.nmeaLine lbase llen) s) = .next t := by
    rw [issued_eq rfl, runSteps_one, (running_atStart hin).step_eq_exec rfl] at hrun
    exact hrun
  obtain ⟨hidle, hinputs⟩ := execNmeaLine_ends hexec
  have halone : t.inputs = [] := hinputs.trans hin
  rw [issued_eq rfl, (running_atStart halone).runSteps_succ rfl (execNmeaLine_again hexec)]
  exact runSteps_of_ended (m := 0) rfl hidle halone n.zero_le

end Sys2Proof.Proofs
end

section
/-! PROOFS. The segments of a buffer (R241) and the order in which NMEA.BUF folds them (R255 to R257). -/

namespace Sys2Proof.Proofs

open Sys2Proof Sys2Proof.Machine Sys2Proof.Safety Sys2Proof.Laws

/-! ### Cutting a byte sequence (R241) -/

/-- What holds of one piece without a cut, and of a piece, a cut and the pieces of the rest if it holds of those, holds of the
pieces of every byte sequence. -/
theorem splitAtBytes_induction {cut : Byte → Bool} {P : List Byte → List (List Byte) → Prop}
    (whole : ∀ piece, (∀ b ∈ piece, cut b = false) → P piece [piece])
    (cons : ∀ piece c rest, (∀ b ∈ piece, cut b = false) → cut c = true → P rest (splitAtBytes cut rest) →
      P (piece ++ c :: rest) (piece :: splitAtBytes cut rest)) (bytes : List Byte) :
    P bytes (splitAtBytes cut bytes) := by
  induction h : bytes.length using Nat.strong_induction_on generalizing bytes with
  | _ n ih =>
    rcases splitAtBytes_cases cut bytes with ⟨hs, hfree⟩ | ⟨piece, c, rest, rfl, hc, hfree, hs⟩ <;> rw [hs]
    · exact whole bytes hfree
    · exact cons piece c rest hfree hc (ih rest.length (by simp [← h]; omega) rest rfl)

theorem filter_piece {cut : Byte → Bool} {piece : List Byte} (h : ∀ b ∈ piece, cut b = false) : piece.filter cut = [] :=
  List.filter_eq_nil_iff.2 (by simpa using h)

theorem filter_piece_cut {cut : Byte → Bool} {piece : List Byte} {c : Byte} (rest : List Byte)
    (h : ∀ b ∈ piece, cut b = false) (hc : cut c = true) :
    (piece ++ c :: rest).filter cut = c :: rest.filter cut := by
  rw [List.filter_append, filter_piece h, List.nil_append, List.filter_cons_of_pos hc]

theorem splitAtBytes_free (cut : Byte → Bool) (bytes : List Byte) :
    ∀ piece ∈ splitAtBytes cut bytes, ∀ b ∈ piece, cut b = false := by
  refine splitAtBytes_induction (P := fun _ pieces => ∀ piece ∈ pieces, ∀ b ∈ piece, cut b = false) ?_ ?_ bytes
  · intro piece hfree
    simpa using hfree
  · intro piece c rest hfree _ ih
    simpa using ⟨hfree, ih⟩

/-- There is one piece more than there are cuts. -/
theorem length_splitAtBytes (cut : Byte → Bool) (bytes : List Byte) :
    (splitAtBytes cut bytes).length = (bytes.filter cut).length + 1 := by
  refine splitAtBytes_induction (P := fun bs pieces => pieces.length = (bs.filter cut).length + 1) ?_ ?_ bytes
  · intro piece hfree
    rw [filter_piece hfree]
    rfl
  · intro piece c rest hfree hc ih
    rw [filter_piece_cut rest hfree hc, List.length_cons, List.length_cons, ih]

/-- The first piece, and then each cut with the piece after it. -/
theorem splitAtBytes_rebuild (cut : Byte → Bool) (bytes : List Byte) :
    ∃ first rest, splitAtBytes cut bytes = first :: rest ∧
      bytes = first ++ ((bytes.filter cut).zip rest).flatMap (fun x => x.1 :: x.2) := by
  refine splitAtBytes_induction (P := fun bs pieces => ∃ first rest, pieces = first :: rest ∧
    bs = first ++ ((bs.filter cut).zip rest).flatMap (fun x => x.1 :: x.2)) ?_ ?_ bytes
  · intro piece hfree
    exact ⟨piece, [], rfl, by simp⟩
  · rintro piece c rest hfree hc ⟨first, others, hs, hrest⟩
    refine ⟨piece, _, rfl, ?_⟩
    rw [filter_piece_cut rest hfree hc, hs, List.zip_cons_cons, List.flatMap_cons, List.cons_append, ← hrest]

/-- Settles O50: a buffer is cut at its terminators. -/
theorem segmentsRebuildBuffer : Obligations.SegmentsRebuildBuffer := fun buffer =>
  ⟨splitAtBytes_free _ buffer, length_splitAtBytes _ buffer, splitAtBytes_rebuild _ buffer⟩

/-! ### The fold in order (R255 to R257) -/

/-- A cut anywhere parts the pieces into those before it and those after it. -/
theorem splitAtBytes_append_cut {cut : Byte → Bool} {c : Byte} (hc : cut c = true) (first rest : List Byte) :
    splitAtBytes cut (first ++ c :: rest) = splitAtBytes cut first ++ splitAtBytes cut rest := by
  refine splitAtBytes_induction
    (P := fun bs pieces => splitAtBytes cut (bs ++ c :: rest) = pieces ++ splitAtBytes cut rest) ?_ ?_ first
  · intro piece hfree
    rw [splitAtBytes_append rest hfree hc, List.singleton_append]
  · intro piece d mid hfree hd ih
    rw [List.append_assoc, List.cons_append, splitAtBytes_append _ hfree hd, ih, List.cons_append]

theorem bufferOutcomes_append {t : Byte} (ht : isTerminator t = true) (first rest : List Byte) :
    bufferOutcomes (first ++ t :: rest) = bufferOutcomes first ++ bufferOutcomes rest := by
  simp only [bufferOutcomes, segments, splitAtBytes_append_cut ht, List.filter_append, List.map_append]

/-- A buffer without a terminator is one line, and none if it is empty (R241, R257). -/
theorem bufferOutcomes_line {line : List Byte} (h : ∀ b ∈ line, isTerminator b = false) :
    bufferOutcomes line = if line = [] then [] else [decodeLine line] := by
  rw [bufferOutcomes, segments, splitAtBytes_of_no_cut h]
  cases line <;> rfl

theorem foldBuffer_loc (buffer : List Byte) (s : State) :
    (foldBuffer buffer s).loc = (bufferOutcomes buffer).foldl applyOutcome {} := by
  rw [foldBuffer_eq_foldl, foldl_countLine]
  rfl

/-- Settles O47: the last line's outcome stands at the end of the outcomes, which are applied in order. -/
theorem nmeaBufFoldsInOrder : Obligations.NmeaBufFoldsInOrder := by
  intro line s hline
  refine ⟨?_, fun first t ht => ?_⟩
  · rw [foldBuffer_loc, bufferOutcomes_line hline]
    split
    · rfl
    · cases decodeLine line with
      | accepted kind u => exact apply_absent u
      | _ => rfl
  · rw [foldBuffer_loc, foldBuffer_loc, bufferOutcomes_append ht, List.foldl_append, bufferOutcomes_line hline]
    split
    · rfl
    · cases decodeLine line <;> rfl

end Sys2Proof.Proofs
end

section
/-! PROOFS. What decodeLine makes of a line (R242 to R254), the value of a coordinate (R250), and that a flipped bit of the body
does not pass (R260). -/

namespace Sys2Proof.Proofs

open Sys2Proof Sys2Proof.Machine Sys2Proof.Safety Sys2Proof.Laws

/-! ### The outcomes of decodeLine, in R254's order -/

section
variable {line : List Byte}

theorem hasStar_iff : hasStar line = true ↔ starByte ∈ line := by
  simp [hasStar]

theorem decodeLine_of_no_star (h : starByte ∉ line) : decodeLine line = .delimiterMissing := by
  rw [← hasStar_iff, Bool.not_eq_true] at h
  simp [decodeLine, h]

theorem decodeLine_of_mismatch (hs : starByte ∈ line) (hm : checksumMatches line = false) :
    decodeLine line = .mismatch := by
  simp [decodeLine, hasStar_iff.2 hs, hm]

variable (hs : starByte ∈ line) (hm : checksumMatches line = true)
include hs hm

theorem decodeLine_of_unknown (hk : classify line = none) : decodeLine line = .unknown := by
  simp [decodeLine, hasStar_iff.2 hs, hm, hk]

theorem decodeLine_of_short {kind : Kind} (hk : classify line = some kind)
    (hn : (fields line).length < fieldsNeeded kind) : decodeLine line = .truncated := by
  simp [decodeLine, hasStar_iff.2 hs, hm, hk, hn]

theorem decodeLine_of_malformed {kind : Kind} (hk : classify line = some kind)
    (hu : updateOf kind (fields line) = none) : decodeLine line = .truncated := by
  simp [decodeLine, hasStar_iff.2 hs, hm, hk, hu]

theorem decodeLine_of_update {kind : Kind} {u : Loc} (hk : classify line = some kind)
    (hn : fieldsNeeded kind ≤ (fields line).length) (hu : updateOf kind (fields line) = some u) :
    decodeLine line = .accepted kind u := by
  simp [decodeLine, hasStar_iff.2 hs, hm, hk, not_lt.2 hn, hu]

end

/-- An accepted line has passed every check of R254. -/
theorem decodeLine_accepted {line : List Byte} {kind : Kind} {u : Loc} (h : decodeLine line = .accepted kind u) :
    checksumMatches line = true ∧ classify line = some kind ∧ fieldsNeeded kind ≤ (fields line).length ∧
      updateOf kind (fields line) = some u := by
  by_cases hs : starByte ∈ line
  · cases hm : checksumMatches line with
    | false => cases (decodeLine_of_mismatch hs hm).symm.trans h
    | true =>
      cases hk : classify line with
      | none => cases (decodeLine_of_unknown hs hm hk).symm.trans h
      | some k =>
        rcases lt_or_ge (fields line).length (fieldsNeeded k) with hn | hn
        · cases (decodeLine_of_short hs hm hk hn).symm.trans h
        · cases hu : updateOf k (fields line) with
          | none => cases (decodeLine_of_malformed hs hm hk hu).symm.trans h
          | some v =>
            cases (decodeLine_of_update hs hm hk hn hu).symm.trans h
            exact ⟨rfl, rfl, hn, hu⟩
  · cases (decodeLine_of_no_star hs).symm.trans h

/-! ### The tag and the fields (R245 to R248) -/

/-- A line is of a kind if and only if its first six bytes are the kind's tag (R245). -/
theorem classify_eq_some {line : List Byte} {kind : Kind} : classify line = some kind ↔ line.take 6 = tagOf kind := by
  have hne : rmcTag ≠ ggaTag := by decide
  unfold classify
  split
  · next h => cases kind <;> simp [h, tagOf, hne.symm]
  · next h =>
    split
    · next h' => cases kind <;> simp [h', tagOf, hne]
    · next h' => cases kind <;> simp [h, h', tagOf]

/-- A line's first six bytes are a kind's tag if and only if the line begins with it (R245). -/
theorem take_six_eq_tag {line : List Byte} {kind : Kind} : line.take 6 = tagOf kind ↔ tagOf kind <+: line := by
  have hlen : (tagOf kind).length = 6 := by cases kind <;> rfl
  rw [List.prefix_iff_eq_take, hlen, eq_comm]

theorem classify_of_prefix {line : List Byte} {kind : Kind} (h : tagOf kind <+: line) : classify line = some kind :=
  classify_eq_some.2 (take_six_eq_tag.2 h)

theorem classify_of_no_prefix {line : List Byte} (h : ∀ kind, ¬tagOf kind <+: line) : classify line = none :=
  Option.eq_none_iff_forall_ne_some.2 fun kind hk => h kind (take_six_eq_tag.1 (classify_eq_some.1 hk))

/-- The fields of a line are the sequences that its body joins by `','` (R246). -/
theorem fields_append {body : List Byte} {fs : List (List Byte)} (after : List Byte) (hstar : starByte ∉ body)
    (hbody : body = [0x2C].intercalate fs) (hne : fs ≠ []) (hfree : ∀ f ∈ fs, (0x2C : Byte) ∉ f) :
    fields (body ++ starByte :: after) = fs := by
  rw [fields, lineBody_append after hstar, hbody, splitAtBytes_intercalate _ hne hfree]

/-- A field gives no value if and only if it is empty (R248). -/
theorem eq_none_iff_of_optionalOf {α : Type} {grammar : List Byte → α → Prop} {f : List Byte} {o : Option α}
    (h : OptionalOf grammar f o) : o = none ↔ f = [] := by
  obtain ⟨rfl, rfl⟩ | ⟨hf, v, -, rfl⟩ := h
  · simp
  · simp [hf]

/-- Settles O53: an accepted line by the checks it passed, and the other way one outcome after the other. -/
theorem acceptedLineUpdates : Obligations.AcceptedLineUpdates := by
  refine ⟨fun line kind u h => ?_, fun line => decodeLine_of_no_star, ?_⟩
  · obtain ⟨hm, hk, hn, hu⟩ := decodeLine_accepted h
    rw [classify_eq_some] at hk
    rw [updateOf_eq_some] at hu
    refine ⟨hm, hn, ?_, ?_⟩
    · rintro rfl
      obtain ⟨signLat, signLon, -, -, hlat, hlon, hfixq, hnsat, halt, hspd, hcrs⟩ := hu
      exact ⟨hk, hspd, hcrs, eq_none_iff_of_optionalOf hlat, eq_none_iff_of_optionalOf hlon,
        eq_none_iff_of_optionalOf hfixq, eq_none_iff_of_optionalOf hnsat,
        eq_none_iff_of_optionalOf halt⟩
    · rintro rfl
      obtain ⟨hspd, hcrs, hlat, hlon, halt, hfixq, hnsat⟩ := hu
      exact ⟨hk, hlat, hlon, halt, hfixq, hnsat,
        eq_none_iff_of_optionalOf hspd, eq_none_iff_of_optionalOf hcrs⟩
  · intro body after fs hstar hbody hne hfree line
    have hs : starByte ∈ line := by simp [line]
    have hfields : fields line = fs := fields_append after hstar hbody hne hfree
    have hsum : checksumMatches line = true ↔ _ := checksumMatches_append after hstar
    refine ⟨fun hno => decodeLine_of_mismatch hs (by rwa [← hsum, Bool.not_eq_true] at hno), fun hsends => ?_⟩
    have hm := hsum.2 hsends
    refine ⟨fun hgga hrmc => ?_, fun kind htag => ?_⟩
    · exact decodeLine_of_unknown hs hm (classify_of_no_prefix fun kind => by cases kind <;> assumption)
    intro need
    have hk := classify_of_prefix htag
    have hneed : fieldsNeeded kind = need := by cases kind <;> rfl
    rw [← hneed, ← hfields]
    refine ⟨decodeLine_of_short hs hm hk, fun hn => ⟨fun u hu => ?_, fun hnone => ?_⟩⟩
    · exact decodeLine_of_update hs hm hk hn (updateOf_eq_some.2 hu)
    · exact decodeLine_of_malformed hs hm hk (Option.eq_none_iff_forall_ne_some.2 fun u hu =>
        hnone u (updateOf_eq_some.1 hu))

/-! ### The value of a coordinate (R250) -/

/-- The degrees of `DDMM.MMMM` are its hundreds. -/
theorem floor_hundreds (d : Nat) {m : Rat} (h0 : 0 ≤ m) (h1 : m < 100) : ((100 * (d : Rat) + m) / 100).floor = d := by
  refine (Int.floor_eq_iff (a := (100 * (d : Rat) + m) / 100)).2 ⟨?_, ?_⟩
  · rw [Int.cast_natCast, le_div_iff₀ (by norm_num)]
    linarith
  · rw [Int.cast_natCast, div_lt_iff₀ (by norm_num)]
    linarith

/-- Settles O52: what is left of the value after its hundreds are the minutes. -/
theorem coordinateConversion : Obligations.CoordinateConversion := by
  intro d m h0 h1
  rw [magnitude, floor_hundreds d h0 h1, Int.cast_natCast, add_sub_cancel_left]

/-! ### A flipped bit (R260) -/

theorem foldl_xor_eq (bs : List Byte) (x : Byte) : bs.foldl (· ^^^ ·) x = x ^^^ bs.foldl (· ^^^ ·) 0 := by
  simpa using List.foldl_assoc (op := fun x y : Byte => x ^^^ y) (l := bs) (a₁ := x) (a₂ := 0)

/-- A change of a byte after the first changes the body's sum by as much (R243). -/
theorem bodySum_xor {before : List Byte} (hne : before ≠ []) (b d : Byte) (mid : List Byte) :
    bodySum (before ++ (b ^^^ d) :: mid) = bodySum (before ++ b :: mid) ^^^ d := by
  obtain ⟨x, xs, rfl⟩ := List.exists_cons_of_ne_nil hne
  simp only [bodySum, List.cons_append, List.drop_succ_cons, List.drop_zero, List.foldl_append, List.foldl_cons]
  rw [foldl_xor_eq mid, foldl_xor_eq mid (_ ^^^ b)]
  ac_rfl

/-- The bytes after the `'*'` send one checksum only (R244). -/
theorem sendsChecksum_unique {after : List Byte} {n m : Nat} (hn : SendsChecksum after n) (hm : SendsChecksum after m) :
    n = m := by
  have hno : starByte ∉ ([] : List Byte) := List.not_mem_nil
  exact Option.some.inj (((sentChecksum_append after n hno).2 hn).symm.trans ((sentChecksum_append after m hno).2 hm))

/-- A checksum matches one body's sum only, so no other sum passes with the same bytes after the `'*'` (R243, R244). -/
theorem checksumMatches_of_other_sum {body body' : List Byte} (after : List Byte) (hbody : starByte ∉ body)
    (hbody' : starByte ∉ body') (hsum : bodySum body' ≠ bodySum body)
    (h : checksumMatches (body ++ starByte :: after) = true) : checksumMatches (body' ++ starByte :: after) = false := by
  by_contra hm
  rw [Bool.not_eq_false, checksumMatches_append after hbody'] at hm
  rw [checksumMatches_append after hbody] at h
  exact hsum (BitVec.eq_of_toNat_eq (sendsChecksum_unique hm h))

theorem one_shiftLeft_ne_zero (bit : Fin 8) : 1#8 <<< bit.val ≠ 0 := by
  revert bit
  decide

/-- Settles O49: the flip changes the body's sum, and the digits sent after the `'*'` are as they were. -/
theorem singleBitFlipIsDetected : Obligations.SingleBitFlipIsDetected := by
  intro before after b bit hne line flipped hstar hmatch hbefore hb hb'
  have hno : starByte ∉ before := fun h => hbefore _ h rfl
  have hafter : starByte ∈ after := by
    simpa [line, hno, hb.symm] using hasStar_iff.1 hstar
  obtain ⟨mid, sent, rfl, hmid⟩ := List.eq_append_cons_of_mem hafter
  have free {x : Byte} (hx : x ≠ starByte) : starByte ∉ before ++ x :: mid := by simp [hno, hx.symm, hmid]
  have cut (x : Byte) : before ++ x :: (mid ++ starByte :: sent) = (before ++ x :: mid) ++ starByte :: sent := by simp
  have hsum : bodySum (before ++ (b ^^^ 1#8 <<< bit.val) :: mid) ≠ bodySum (before ++ b :: mid) := by
    rw [bodySum_xor hne, ne_eq, xor_left_eq_self_iff]
    exact one_shiftLeft_ne_zero bit
  apply decodeLine_of_mismatch
  · simp [flipped]
  · simp only [line, flipped, cut] at hmatch ⊢
    exact checksumMatches_of_other_sum sent (free hb) (free hb') hsum hmatch

end Sys2Proof.Proofs
end

section
/-! PROOFS. The host's writes to TMEM and LMEM (R81, R83, R306), and the commands that chip-select refuses (R192, R294). -/

namespace Sys2Proof.Proofs

open Sys2Proof Sys2Proof.Machine Sys2Proof.Safety Sys2Proof.Laws

/-! ### The host's writes to the memories of an idle block (R306) -/

section
variable {s : State} {i : Nat} (hb : s.busy = false)
include hb

theorem hostWriteTmem_inRange (e : Word32) (h : i < s.cfg.tmemEntries) :
    hostWriteTmem i e s = { s with tmem := Memory.write s.tmem i e } := by
  simp only [hostWriteTmem, hb, Bool.false_eq_true, if_false, if_pos h]

theorem hostWriteTmem_outOfRange (e : Word32) (h : s.cfg.tmemEntries ≤ i) : hostWriteTmem i e s = s := by
  simp only [hostWriteTmem, hb, Bool.false_eq_true, if_false, if_neg h.not_gt]

theorem hostWriteLmem_inRange (b : Byte) (h : i < s.cfg.lmemBytes) :
    hostWriteLmem i b s = { s with lmem := Memory.write (α := Byte) s.lmem i b } := by
  simp only [hostWriteLmem, hb, Bool.false_eq_true, if_false, if_pos h]

theorem hostWriteLmem_outOfRange (b : Byte) (h : s.cfg.lmemBytes ≤ i) : hostWriteLmem i b s = s := by
  simp only [hostWriteLmem, hb, Bool.false_eq_true, if_false, if_neg h.not_gt]

end

/-- Settles O13: the index decides whether the memory takes the write, and a memory that took it reads by read after write. -/
theorem hostMemoryWriteReadsBack : Obligations.HostMemoryWriteReadsBack := by
  intro s i j e b hb
  refine ⟨fun h => ?_, hostWriteTmem_outOfRange hb e, fun h => ?_, hostWriteLmem_outOfRange hb b⟩
  · exact ⟨_, hostWriteTmem_inRange hb e h, read_write_same _ i e, read_write_other _ e⟩
  · exact ⟨_, hostWriteLmem_inRange hb b h, read_write_same (α := Byte) _ i b, read_write_other (α := Byte) _ b⟩

/-! ### The register driver on a blocked port (R294) -/

/-- The transfer bus is blocked while chip-select is not known to be released (R294). -/
theorem csBlocked_tb {s : State} (h : s.csState ≠ .deselected) : csBlocked .tb s = true := by
  simp [csBlocked, onTransferBus, h]

section
variable {p : Port} {addr : Half} {s : State} (hp : isInert p = false) (hc : csBlocked p s = true) (hk : s.pcSeq = .start)
include hp hc hk

theorem wrCmd_start_refused (val : Half) : wrCmd p addr val s = .next (raise .csNotReleased .none 0 s) := by
  simp [wrCmd, wrFirst, hp, hc, hk]

theorem rdCmd_start_refused : rdCmd p addr s = .next (raise .csNotReleased .none 0 s) := by
  simp [rdCmd, rdFirst, hp, hc, hk]

theorem modifyCmd_start_refused (modify : Half → Half) :
    modifyCmd p addr modify s = .next (raise .csNotReleased .none 0 s) := by
  simp [modifyCmd, rdFirst, hp, hc, hk]

theorem getBitCmd_start_refused (bit : BitVec 4) :
    getBitCmd p addr bit s = .next (raise .csNotReleased .none 0 s) := by
  simp [getBitCmd, rdFirst, hp, hc, hk]

end

/-- Settles O17: each command's first step, on the blocked transfer bus and in CAPTURE, raises CS_NOT_RELEASED. -/
theorem transferBusNeedsReleasedSelect : Obligations.TransferBusNeedsReleasedSelect := by
  intro addr val bit s i hi hk hcs
  show exec i s = .next (raise .csNotReleased .none 0 s)
  have hc := csBlocked_tb hcs
  simp only [List.mem_cons, List.not_mem_nil, or_false] at hi
  obtain rfl | rfl | rfl | rfl | rfl | rfl := hi
  · exact wrCmd_start_refused rfl hc hk val
  · exact rdCmd_start_refused rfl hc hk
  · exact modifyCmd_start_refused rfl hc hk _
  · exact modifyCmd_start_refused rfl hc hk _
  · exact getBitCmd_start_refused rfl hc hk bit
  · exact execCapture_start_refused hk hcs

end Sys2Proof.Proofs
end

section
/-! PROOFS. Reset (R320 to R322): the values it leaves, what a host reset keeps, and the invariants it meets. -/

namespace Sys2Proof.Proofs

open Sys2Proof Sys2Proof.Machine Sys2Proof.Safety Sys2Proof.Laws

/-- Settles O8: the reset state by its fields, STATUS and ERR_INFO by their fields' codes. -/
theorem resetLeavesStatedValues : Obligations.ResetLeavesStatedValues :=
  ⟨rfl, rfl, rfl, rfl, rfl, rfl, rfl, rfl, rfl, rfl, rfl, rfl, rfl, rfl, rfl, rfl, rfl, rfl, rfl, rfl, rfl, rfl, rfl, rfl,
    rfl, rfl, rfl, BitVec.eq_of_toNat_eq (statusWord_toNat _), BitVec.eq_of_toNat_eq (errInfoWord_toNat _)⟩

/-- Settles O9: a host reset is the reset state with what lies outside the block put back. -/
theorem hostResetAbandonsCommand : Obligations.HostResetAbandonsCommand := fun _ =>
  ⟨rfl, rfl, rfl, rfl, rfl, rfl, rfl, rfl, rfl, rfl, rfl, rfl, rfl, rfl, rfl, rfl, rfl, rfl, rfl, rfl, rfl, rfl, rfl, rfl,
    rfl, rfl, rfl, rfl, rfl, rfl, rfl, rfl⟩

/-- Settles O54: after reset the block is idle, its memories hold no cell, the buffer is empty, and there is no event. -/
theorem resetMeetsInvariants : Obligations.ResetMeetsInvariants := by
  have sequencer : SequencerInv State.reset := (sequencerInv_iff_of_idle rfl).2 ⟨rfl, rfl, rfl⟩
  have memories : MemoryInv State.reset := ⟨.nil, .nil, .nil, nofun, nofun, nofun⟩
  have buffer : BufferInv State.reset := (bufferInv_iff _).2 ⟨⟨Nat.zero_le _, nofun⟩, nofun, nofun⟩
  exact ⟨sequencer, memories, buffer, ⟨rfl, trivial⟩, ⟨rfl, nofun⟩⟩

end Sys2Proof.Proofs
end

section
/-! PROOFS. The bounds of R331: a potential bounds the primitives that a command may still issue; every step lowers it by the
primitive it issues, so a run ends within the bound. First the runs, then each unit's potential. -/

namespace Sys2Proof.Proofs

open Sys2Proof Sys2Proof.Machine Sys2Proof.Safety Sys2Proof.Laws

/-! ### Runs that a potential bounds -/

/-- What a step or a run answers: a next state with `P`, or the fault for unwritten TMEM or LMEM (I6). -/
def Proceeds (P : State → Prop) : StepResult → Prop
  | .next t => P t
  | .fault r => abufFault r = false
  | .refused _ => False

theorem Proceeds.mono {P Q : State → Prop} {o : StepResult} (h : Proceeds P o) (hPQ : ∀ t, P t → Q t) :
    Proceeds Q o := by
  cases o with
  | next t => exact hPQ t h
  | fault r => exact h
  | refused r => exact h

theorem Proceeds.and_allows {P Q : State → Prop} {o : StepResult} (h : Proceeds P o) (h' : Allows Q o) :
    Proceeds (fun t => Q t ∧ P t) o := by
  cases o with
  | next t => exact ⟨h', h⟩
  | fault r => exact h
  | refused r => exact h

/-- The bound of R331 on the command's primitives, by the length that CAP_LEN holds. -/
def allowance (i : Instr) (s : State) : Nat := mostPrimitives s.cfg s.capLen.toNat i

/-- From `base` events on, the history is within the bound of `i`, and stays so when a command under way issues `left` more
primitives. -/
def Within (i : Instr) (left : State → Nat) (base : Nat) (s : State) : Prop :=
  s.hist.length + (if s.busy then left s else 0) ≤ base + allowance i s

/-- What R331 says of the command `i` issued in the state `s`. -/
def EndsWithinBound (i : Instr) (s : State) : Prop :=
  (∃ t, runSteps (mostPrimitives s.cfg (2 ^ 23 - 1) i + 1) (issued i s) = .next t ∧ t.busy = false ∧
    t.hist.length ≤ s.hist.length + mostPrimitives s.cfg t.capLen.toNat i) ∨
  (∃ k, runSteps (mostPrimitives s.cfg (2 ^ 23 - 1) i + 1) (issued i s) = .fault (.unwrittenTmem k)) ∨
  (∃ k, runSteps (mostPrimitives s.cfg (2 ^ 23 - 1) i + 1) (issued i s) = .fault (.unwrittenLmem k))

theorem exec_inputs {i : Instr} {s t : State} (h : exec i s = .next t) : t.inputs = s.inputs := by
  rcases exec_shape h with hr | hc | ⟨-, rfl⟩ | rfl | ⟨u, e, hu, rfl⟩
  · obtain ⟨-, -, hin⟩ := (RegisterShape.frame hr).outside
    exact hin
  · exact (CaptureShape.captureFrame hc).inputs
  · rfl
  · rfl
  · unfold DecoderOnly at hu
    rw [hu]
    rfl

/-- A longer FIFO never lowers the bound (R331). -/
theorem mostPrimitives_mono (c : Params) {len len' : Nat} (h : len ≤ len') (i : Instr) :
    mostPrimitives c len i ≤ mostPrimitives c len' i := by
  cases i with
  | capture =>
    simp only [mostPrimitives]
    omega
  | _ => exact le_rfl

section
variable {i : Instr} {I : State → Prop}

/-- A step of a command under way keeps the command and the empty schedule, unless it ends it. -/
theorem Running.exec {s t : State} (h : Running i s) (he : exec i s = .next t) (hb : t.busy = true) : Running i t :=
  ⟨hb, (exec_inputs he).trans h.alone, (exec_hostSideKept he).curCmd.trans h.curCmd⟩

/-- If every step keeps `I`, and `I` bounds the history, then a run ends its command: each step that does not end it adds an
event. -/
theorem proceeds_runSteps {c : Params} {most : Nat} (hw : i.wellFormed = true)
    (hstep : ∀ u, u.busy = true → I u → Proceeds I (exec i u))
    (hmost : ∀ u, u.cfg = c → I u → u.hist.length ≤ most) {n : Nat} {s : State} (hs : Running i s) (hc : s.cfg = c)
    (hI : I s) (hn : most < s.hist.length + n) :
    Proceeds (fun t => t.busy = false ∧ t.cfg = c ∧ I t) (runSteps n s) := by
  induction n generalizing s with
  | zero =>
    have := hmost s hc hI
    omega
  | succ n ih =>
    have hproceeds := hstep s hs.busy hI
    have hexec := hs.step_eq_exec hw
    cases he : exec i s with
    | refused r =>
      rw [he] at hproceeds
      cases hproceeds
    | fault r =>
      rw [he] at hproceeds hexec
      rw [runSteps_fault hexec]
      exact hproceeds
    | next t =>
      rw [he] at hproceeds
      rw [hs.runSteps_succ hw he]
      have hct : t.cfg = c := (exec_hostSideKept he).cfg.trans hc
      rcases onePrimitivePerStep i s t he with ⟨-, hb, -⟩ | ⟨e, hhist, hb, -, -⟩
      · rw [runSteps_stay ((step_of_inputs_nil ((exec_inputs he).trans hs.alone)).trans (seqStep_of_idle hb))]
        exact ⟨hb, hct, hproceeds⟩
      · refine ih (hs.exec he (hb.trans hs.busy)) hct hproceeds ?_
        rw [hhist, List.length_append, List.length_singleton]
        omega

/-- A command whose steps keep `I` ends within the bound of R331, if `I` keeps the history within it. -/
theorem endsWithinBound_of_invariant {s : State} (hw : i.wellFormed = true) (hin : s.inputs = [])
    (hstart : I (atStart i s)) (hstep : ∀ u, u.busy = true → I u → Proceeds I (exec i u))
    (hbound : ∀ u, I u → u.hist.length ≤ s.hist.length + allowance i u) : EndsWithinBound i s := by
  have hmost (u : State) (hc : u.cfg = s.cfg) (hI : I u) :
      u.hist.length ≤ s.hist.length + mostPrimitives s.cfg (2 ^ 23 - 1) i :=
    calc u.hist.length ≤ s.hist.length + mostPrimitives s.cfg u.capLen.toNat i := hc ▸ hbound u hI
      _ ≤ _ := Nat.add_le_add_left (mostPrimitives_mono _ (Nat.le_sub_one_of_lt u.capLen.isLt) i) _
  have hrun := proceeds_runSteps hw hstep hmost (running_atStart hin) rfl hstart
    (n := mostPrimitives s.cfg (2 ^ 23 - 1) i + 1) (Nat.lt_succ_self _)
  rw [← issued_eq hw] at hrun
  unfold EndsWithinBound
  cases ho : runSteps (mostPrimitives s.cfg (2 ^ 23 - 1) i + 1) (issued i s) with
  | next t =>
    rw [ho] at hrun
    obtain ⟨hb, hc, hI⟩ := hrun
    exact .inl ⟨t, rfl, hb, hc ▸ hbound t hI⟩
  | refused r =>
    rw [ho] at hrun
    cases hrun
  | fault r =>
    rw [ho] at hrun
    cases r with
    | unwrittenTmem k => exact .inr (.inl ⟨k, rfl⟩)
    | unwrittenLmem k => exact .inr (.inr ⟨k, rfl⟩)
    | unwrittenAbuf k | outsideAbuf k => cases hrun

end

/-! ### The shared operations that end a step -/

section
variable {i : Instr} {left : State → Nat} {base : Nat} {s u : State}

theorem Within.hist_le (h : Within i left base u) : u.hist.length ≤ base + allowance i u :=
  (Nat.le_add_right _ _).trans h

/-- While the command is under way the primitives it has left count. -/
theorem within_iff_of_busy (hb : u.busy = true) :
    Within i left base u ↔ u.hist.length + left u ≤ base + allowance i u := by
  rw [Within, if_pos hb]

theorem within_of_left (h : u.hist.length + left u ≤ base + allowance i u) : Within i left base u := by
  unfold Within
  split <;> omega

/-- A step that ends the command with the history as it was. -/
def EndsSilently (s t : State) : Prop := t.busy = false ∧ t.hist = s.hist

theorem EndsSilently.within {t : State} (h : EndsSilently s t) (ha : allowance i t = allowance i s)
    (hle : s.hist.length ≤ base + allowance i s) : Within i left base t := by
  obtain ⟨hb, hhist⟩ := h
  rw [Within, hb, hhist, ha]
  exact hle

theorem within_ask {p : Prim} {k : Point} (h : u.hist.length + 1 + left (ask p k u) ≤ base + allowance i u) :
    Within i left base (ask p k u) := by
  refine within_of_left ?_
  rw [ask_hist, List.length_append]
  exact h

theorem within_signal {p : Prim} {k : Point} (h : u.hist.length + 1 + left (signal p k u) ≤ base + allowance i u) :
    Within i left base (signal p k u) := by
  refine within_of_left ?_
  rw [signal_hist, List.length_append]
  exact h

theorem within_askSink {bytes : List Byte} {k : Point}
    (h : u.hist.length + 1 + left (askSink bytes k u) ≤ base + allowance i u) :
    Within i left base (askSink bytes k u) := by
  refine within_of_left ?_
  rw [askSink_hist, List.length_append]
  exact h

end

/-- A command whose steps lower the potential `left` ends within the bound that `left` starts with. -/
theorem endsWithinBound_of_left {i : Instr} {left : State → Nat} {s : State} (hw : i.wellFormed = true)
    (hin : s.inputs = []) (hstart : left (atStart i s) ≤ allowance i s)
    (hstep : ∀ u base, u.hist.length + left u ≤ base + allowance i u → Proceeds (Within i left base) (exec i u)) :
    EndsWithinBound i s :=
  endsWithinBound_of_invariant hw hin (I := Within i left s.hist.length)
    ((within_iff_of_busy rfl).2 (Nat.add_le_add_left hstart _))
    (fun u hb hI => hstep u _ ((within_iff_of_busy hb).1 hI)) fun _ hI => hI.hist_le

/-! ### The register driver -/

/-- The most primitives left to a command that writes through `p`: `first` at its first point, and `rest` once the write and
its delay were issued (R142). -/
def writeLeft (p : Port) (first rest : Nat) : Point → Nat
  | .written => rest
  | .delay => if hasDelay p then rest + 1 else first
  | _ => first

/-- The most primitives that WR has left (R145 to R149). -/
def wrLeft (p : Port) (s : State) : Nat := writeLeft p 2 0 s.pcSeq

/-- The most primitives that RD and GETB have left (R155 to R159, R163). -/
def readLeft (s : State) : Nat := if s.pcSeq = .read then 0 else 1

/-- The most primitives that SETB and CLRB have left (R160). -/
def modifyLeft (p : Port) (s : State) : Nat := if s.pcSeq = .read then 2 else writeLeft p 3 0 s.pcSeq

/-- The most primitives that TBL has left: a write and a delay for each index from TI on (R150). -/
def tableLeft (p : Port) (tlen : Half) (s : State) : Nat :=
  writeLeft p (2 * tlen.toNat) (2 * (tlen.toNat - (s.ti + 1).toNat)) s.pcSeq

/-- The most primitives that DESELECT has left (R207). -/
def deselectLeft (s : State) : Nat := if s.pcSeq = .deselected then 0 else 1

section
variable {p : Port} {first rest : Nat}

theorem writeLeft_first {k : Point} (hw : k ≠ .written) (hd : k = .delay → hasDelay p = false) :
    writeLeft p first rest k = first := by
  cases k with
  | written => exact absurd rfl hw
  | delay => simp [writeLeft, hd rfl]
  | _ => rfl

theorem writeLeft_delay (hd : hasDelay p = true) : writeLeft p first rest .delay = rest + 1 := if_pos hd

theorem writeLeft_portWrite (addr val : Half) (s : State) :
    writeLeft p first rest (portWrite p addr val s).pcSeq ≤ rest + 1 := by
  cases p with
  | a16d8 => exact le_rfl
  | _ => exact Nat.le_succ rest

variable {i : Instr} {left : State → Nat} {base : Nat} {s : State}

/-- A write through a port leaves at most its delay and then the rest. -/
theorem within_portWrite {addr val : Half} (hleft : left (portWrite p addr val s) ≤ rest + 1)
    (h : s.hist.length + (rest + 2) ≤ base + allowance i s) : Within i left base (portWrite p addr val s) :=
  within_ask (u := s) (show _ + 1 + left (portWrite p addr val s) ≤ _ by omega)

theorem wrCmd_within {addr val : Half} (h : s.hist.length + wrLeft p s ≤ base + allowance i s) :
    Proceeds (Within i (wrLeft p) base) (wrCmd p addr val s) := by
  have ends {t : State} (ht : EndsSilently s t) (ha : allowance i t = allowance i s) : Within i (wrLeft p) base t :=
    ht.within ha (by omega)
  unfold wrLeft at h
  rcases wrCmd_cases p addr val s with ⟨-, e⟩ | ⟨-, -, -, -, e⟩ | ⟨-, hk, hd, -, e⟩ | ⟨hd, hk, e⟩ | ⟨-, -, -, e⟩ |
    ⟨-, -, -, e⟩ <;> rw [e]
  · exact ends ⟨rfl, rfl⟩ rfl
  · exact ends ⟨rfl, rfl⟩ rfl
  · rw [writeLeft_first hk hd] at h
    exact within_portWrite (writeLeft_portWrite ..) h
  · rw [hk, writeLeft_delay hd] at h
    exact within_signal h
  · exact ends ⟨rfl, rfl⟩ rfl
  · exact ends ⟨rfl, rfl⟩ rfl

theorem rdCmd_within {addr : Half} (h : s.hist.length + readLeft s ≤ base + allowance i s) :
    Proceeds (Within i readLeft base) (rdCmd p addr s) := by
  have ends {t : State} (ht : EndsSilently s t) (ha : allowance i t = allowance i s) : Within i readLeft base t :=
    ht.within ha (by omega)
  unfold readLeft at h
  rcases rdCmd_cases p addr s with ⟨-, e⟩ | ⟨-, -, -, e⟩ | ⟨-, hk, -, e⟩ | ⟨-, -, -, e⟩ | ⟨v, -, -, -, e⟩ <;> rw [e]
  · exact ends ⟨rfl, rfl⟩ rfl
  · exact ends ⟨rfl, rfl⟩ rfl
  · rw [if_neg hk] at h
    exact within_ask h
  · exact ends ⟨rfl, rfl⟩ rfl
  · exact ends ⟨rfl, rfl⟩ rfl

theorem getBitCmd_within {addr : Half} {bit : BitVec 4} (h : s.hist.length + readLeft s ≤ base + allowance i s) :
    Proceeds (Within i readLeft base) (getBitCmd p addr bit s) := by
  have ends {t : State} (ht : EndsSilently s t) (ha : allowance i t = allowance i s) : Within i readLeft base t :=
    ht.within ha (by omega)
  unfold readLeft at h
  rcases getBitCmd_cases p addr bit s with ⟨-, e⟩ | ⟨-, -, -, e⟩ | ⟨-, hk, -, e⟩ | ⟨-, -, -, e⟩ | ⟨v, -, -, -, e⟩
    <;> rw [e]
  · exact ends ⟨rfl, rfl⟩ rfl
  · exact ends ⟨rfl, rfl⟩ rfl
  · rw [if_neg hk] at h
    exact within_ask h
  · exact ends ⟨rfl, rfl⟩ rfl
  · exact ends ⟨rfl, rfl⟩ rfl

theorem modifyCmd_within {addr : Half} {modify : Half → Half}
    (h : s.hist.length + modifyLeft p s ≤ base + allowance i s) :
    Proceeds (Within i (modifyLeft p) base) (modifyCmd p addr modify s) := by
  have ends {t : State} (ht : EndsSilently s t) (ha : allowance i t = allowance i s) : Within i (modifyLeft p) base t :=
    ht.within ha (by omega)
  unfold modifyLeft at h
  rcases modifyCmd_cases p addr modify s with ⟨-, e⟩ | ⟨-, -, -, -, -, e⟩ | ⟨-, hr, hk, hd, -, e⟩ | ⟨-, -, -, e⟩ |
    ⟨v, -, hk, -, e⟩ | ⟨hd, hk, e⟩ | ⟨-, -, -, e⟩ | ⟨-, -, -, e⟩ <;> rw [e]
  · exact ends ⟨rfl, rfl⟩ rfl
  · exact ends ⟨rfl, rfl⟩ rfl
  · rw [if_neg hr, writeLeft_first hk hd] at h
    exact within_ask h
  · exact ends ⟨rfl, rfl⟩ rfl
  · rw [if_pos hk] at h
    refine within_portWrite (s := { s with rmwV := v }) ?_ h
    have hr : (portWrite p addr (modify v) { s with rmwV := v }).pcSeq ≠ .read := by cases p <;> nofun
    rw [modifyLeft, if_neg hr]
    exact writeLeft_portWrite ..
  · rw [hk, if_neg nofun, writeLeft_delay hd] at h
    exact within_signal h
  · exact ends ⟨rfl, rfl⟩ rfl
  · exact ends ⟨rfl, rfl⟩ rfl

/-- The loop's head leaves a write and a delay for each index from TI on (R150). -/
theorem tableEntry_within {tbase tlen : Half}
    (h : s.hist.length + 2 * (tlen.toNat - s.ti.toNat) ≤ base + allowance i s) :
    Proceeds (Within i (tableLeft p tlen) base) (tableEntry p tbase tlen s) := by
  have ends {t : State} (ht : EndsSilently s t) (ha : allowance i t = allowance i s) : Within i (tableLeft p tlen) base t :=
    ht.within ha (by omega)
  rcases tableEntry_cases p tbase tlen s with ⟨-, e⟩ | ⟨-, -, -, e⟩ | ⟨c, -, -, -, -, e⟩ | ⟨c, hti, -, -, -, e⟩ <;> rw [e]
  · exact ends ⟨rfl, rfl⟩ rfl
  · exact rfl
  · exact ends ⟨rfl, rfl⟩ rfl
  · refine within_portWrite (s := { s with tblCount := s.tblCount + 1 }) (writeLeft_portWrite ..) ?_
    rw [show (portWrite p (entryAddr c) (entryVal c) { s with tblCount := s.tblCount + 1 }).ti = s.ti from rfl,
      toNat_succ_of_lt rfl hti]
    show s.hist.length + _ ≤ base + allowance i s
    omega

theorem tblCmd_within {tbase tlen : Half} (h : s.hist.length + tableLeft p tlen s ≤ base + allowance i s) :
    Proceeds (Within i (tableLeft p tlen) base) (tblCmd p tbase tlen s) := by
  have ends {t : State} (ht : EndsSilently s t) (ha : allowance i t = allowance i s) : Within i (tableLeft p tlen) base t :=
    ht.within ha (by omega)
  unfold tableLeft at h
  rcases tblCmd_cases p tbase tlen s with ⟨-, e⟩ | ⟨hd, hk, e⟩ | ⟨-, -, -, e⟩ | ⟨-, hk, -, e⟩ | ⟨-, hk, hd, e⟩ <;> rw [e]
  · exact ends ⟨rfl, rfl⟩ rfl
  · rw [hk, writeLeft_delay hd] at h
    refine within_signal ?_
    show s.hist.length + 1 + 2 * (tlen.toNat - (s.ti + 1).toNat) ≤ _
    omega
  · exact ends ⟨rfl, rfl⟩ rfl
  · rw [hk] at h
    exact tableEntry_within (s := { s with ti := s.ti + 1 }) h
  · rw [writeLeft_first hk hd] at h
    exact tableEntry_within (s := { s with tblCount := 0, ti := 0 }) h

/-! ### DESELECT and the NMEA decoder -/

theorem execDeselect_within (h : s.hist.length + deselectLeft s ≤ base + allowance i s) :
    Proceeds (Within i deselectLeft base) (execDeselect s) := by
  unfold deselectLeft at h
  rcases execDeselect_cases s with ⟨hk, e⟩ | ⟨hk, e⟩ <;> rw [e]
  · rw [if_pos hk] at h
    exact EndsSilently.within (s := s) ⟨rfl, rfl⟩ rfl h
  · rw [if_neg hk] at h
    exact within_signal h

/-- An NMEA command ends in one step, or faults at an unwritten byte (R240). -/
theorem withBuffer_proceeds {lbase llen : Half} {f : List Byte → State} (hf : ∀ buffer, EndsSilently s (f buffer)) :
    Proceeds (EndsSilently s) (withBuffer lbase llen s fun buffer => .next (f buffer)) := by
  rcases withBuffer_cases lbase llen s (fun buffer => .next (f buffer)) with ⟨-, e⟩ | ⟨k, -, -, e⟩ | ⟨buffer, -, -, e⟩
    <;> rw [e]
  · exact ⟨rfl, rfl⟩
  · exact rfl
  · exact hf buffer

end

/-! ### The capture engine -/

/-- The polls left before the bound (R195). -/
def pollsLeft (s : State) : Nat := (BitVec.ofNat 32 s.cfg.pollLimit - s.pollCount).toNat

/-- The most primitives left at the head of the stream: five for each byte that remains, its `XFER` and a rotation, and two at
the end (R199 to R204). -/
def streamLeft (remain : FifoLen) : Nat := 5 * remain.toNat + 2

/-- The most primitives left once CAP_LEN is read: `CS_ASSERT`, `BURST_BEGIN`, and the stream (R198). -/
def openLeft (s : State) : Nat := streamLeft s.capLen + 2

/-- The most primitives that CAPTURE has left. After a pull, CAP_REMAIN still counts the byte pulled (R199). -/
def captureLeft (s : State) : Nat :=
  match s.pcSeq with
  | .armClear => 1 + (pollsLeft s + (openLeft s + 3))
  | .armStart | .polled => pollsLeft s + (openLeft s + 3)
  | .size1 => openLeft s + 2
  | .size2 => openLeft s + 1
  | .size3 => openLeft s
  | .csAsserted => streamLeft s.capRemain + 1
  | .burstOpen => streamLeft s.capRemain
  | .pulled => streamLeft (s.capRemain - 1) + 4
  | .rotDeasserted _ => streamLeft s.capRemain + 3
  | .rotFlushed _ => streamLeft s.capRemain + 2
  | .rotAsserted _ => streamLeft s.capRemain + 1
  | .rotBurst _ => streamLeft s.capRemain
  | .eofFlushed => 1
  | .eofDeasserted | .exhausted => 0
  | .idle | .start | .delay | .written | .read | .deselected => allowance .capture s

/-- The bound of R331 on a capture: two arming writes, the polls, and what follows them. -/
theorem allowance_capture (s : State) : allowance .capture s = 2 + (s.cfg.pollLimit + (openLeft s + 3)) := by
  simp only [allowance, mostPrimitives, openLeft, streamLeft]
  omega

theorem pollLimit_lt (c : Params) : c.pollLimit < 2 ^ 32 := by
  have := c.pollLimitLess1.isLt
  unfold Params.pollLimit
  omega

/-- SESSION_INIT leaves every poll (R193). -/
theorem pollsLeft_of_zero {s : State} (h : s.pollCount = 0) : pollsLeft s = s.cfg.pollLimit := by
  rw [pollsLeft, h, show (0 : Word32) = 0#32 from rfl, BitVec.sub_zero, BitVec.toNat_ofNat]
  exact Nat.mod_eq_of_lt (pollLimit_lt _)

/-- A poll uses one up (R195). -/
theorem pollsLeft_poll {s : State} (h : s.pollCount.toNat ≠ s.cfg.pollLimit) :
    pollsLeft { s with pollCount := s.pollCount + 1 } + 1 = pollsLeft s := by
  have hlimit := pollLimit_lt s.cfg
  unfold pollsLeft
  bv_omega

/-- A byte pulled uses up its five primitives (R199). -/
theorem streamLeft_pull {remain : FifoLen} (h : remain ≠ 0) : streamLeft (remain - 1) + 5 = streamLeft remain := by
  unfold streamLeft
  bv_omega

section
variable {base : Nat} {s u : State}

theorem pollAgain_within (h : u.hist.length + (pollsLeft u + (openLeft u + 3)) ≤ base + allowance .capture u) :
    Within .capture captureLeft base (pollAgain u) := by
  have ends {t : State} (ht : EndsSilently u t) (ha : allowance .capture t = allowance .capture u) :
      Within .capture captureLeft base t := ht.within ha (by omega)
  rcases pollAgain_cases u with ⟨-, e⟩ | ⟨-, -, e⟩ | ⟨-, hpoll, e⟩ <;> rw [e]
  · exact ends ⟨rfl, rfl⟩ rfl
  · exact ends ⟨rfl, rfl⟩ rfl
  · have := pollsLeft_poll hpoll
    refine within_ask (u := { u with pollCount := u.pollCount + 1 }) ?_
    show u.hist.length + 1 + (pollsLeft { u with pollCount := u.pollCount + 1 } + (openLeft u + 3)) ≤
      base + allowance .capture u
    omega

theorem openBurst_within (h : u.hist.length + openLeft u ≤ base + allowance .capture u) :
    Within .capture captureLeft base (openBurst u) := by
  have ends {t : State} (ht : EndsSilently u t) (ha : allowance .capture t = allowance .capture u) :
      Within .capture captureLeft base t := ht.within ha (by omega)
  rcases openBurst_cases u with ⟨-, e⟩ | ⟨-, -, e⟩ | ⟨-, -, e⟩ <;> rw [e]
  · exact ends ⟨rfl, rfl⟩ rfl
  · exact ends ⟨rfl, rfl⟩ rfl
  · refine within_signal (u := { u with capRemain := u.capLen }) ?_
    show u.hist.length + 1 + (streamLeft u.capLen + 1) ≤ base + allowance .capture u
    unfold openLeft at h
    omega

section
variable (h : u.hist.length + streamLeft u.capRemain ≤ base + allowance .capture u)
include h

theorem streamNext_within : Within .capture captureLeft base (streamNext u) := by
  rcases streamNext_cases u with ⟨-, e⟩ | ⟨hrem, e⟩ <;> rw [e]
  · refine within_signal ?_
    show u.hist.length + 1 + 0 ≤ base + allowance .capture u
    unfold streamLeft at h
    omega
  · have := streamLeft_pull hrem
    refine within_ask ?_
    show u.hist.length + 1 + (streamLeft (u.capRemain - 1) + 4) ≤ base + allowance .capture u
    omega

theorem afterData_within : Allows (Within .capture captureLeft base) (afterData u) := by
  rcases afterData_cases u with ⟨-, -, e⟩ | ⟨-, e⟩ <;> rw [e]
  · refine flush_allows fun bytes => within_askSink ?_
    show u.hist.length + 1 + 1 ≤ base + allowance .capture u
    unfold streamLeft at h
    omega
  · exact streamNext_within h

/-- After a rotation the byte pending finds room, and so does the second byte of a start marker (R6, R203). -/
theorem afterStore_withByte_within (hc : u.capCursor = 0) (site : StoreSite) (b : Byte) :
    Allows (Within .capture captureLeft base) (afterStore site (withByte b u)) := by
  cases site with
  | startFF =>
    have room : (withByte b u).capCursor.toNat < (withByte b u).cfg.bufCap := by
      rw [withByte_cursor (room_of_empty hc), hc]
      exact (bufCap_bounds u.cfg).1
    show Allows _ (store .startD8 (fun u' => .next (streamNext u')) (withByte b u))
    rw [store_of_room room]
    exact streamNext_within (u := withByte (storeByte .startD8 (withByte b u)) (withByte b u)) h
  | startD8 => exact streamNext_within (u := withByte b u) h
  | data => exact afterData_within (u := withByte b u) h

end

section
variable (h : u.hist.length + (streamLeft u.capRemain + 4) ≤ base + allowance .capture u)
include h

/-- A store into a full buffer begins a rotation of four primitives (R203). -/
theorem store_within {site : StoreSite} {next : State → StepResult}
    (hnext : ∀ b, Allows (Within .capture captureLeft base) (next (withByte b u))) :
    Allows (Within .capture captureLeft base) (store site next u) := by
  rcases store_cases site next u with ⟨-, e⟩ | ⟨-, e⟩ | ⟨-, e⟩ <;> rw [e]
  · refine within_signal ?_
    show u.hist.length + 1 + (streamLeft u.capRemain + 3) ≤ base + allowance .capture u
    omega
  · trivial
  · exact hnext _

theorem examineWindow_within : Allows (Within .capture captureLeft base) (examineWindow u) := by
  have hstream : u.hist.length + streamLeft u.capRemain ≤ base + allowance .capture u := by omega
  rcases examineWindow_cases u with ⟨-, e⟩ | ⟨-, -, -, e⟩ | ⟨-, -, e⟩ <;> rw [e]
  · exact store_within h fun b => afterData_within (u := withByte b u) hstream
  · refine store_within (u := { u with inFrame := true }) h fun b => ?_
    refine store_within (u := withByte b { u with inFrame := true }) h fun b' => ?_
    exact streamNext_within (u := withByte b' (withByte b { u with inFrame := true })) hstream
  · exact streamNext_within hstream

end

/-- The program points whose step acts upon the pending answer (R9). -/
def awaitsAnswer (k : Point) : Bool := (awaitedPrim k).isSome || sinkPoint k

/-- An `Err` ends the capture (R205). -/
theorem execCapture_of_err (hk : awaitsAnswer s.pcSeq = true) (ha : s.ans = .err) :
    ∃ e prim c, execCapture s = .next (captureFail e prim { s with csState := c }) := by
  rcases Bool.or_eq_true_iff.1 hk with hk | hk
  · obtain ⟨prim, hprim⟩ := Option.isSome_iff_exists.1 hk
    exact ⟨_, _, s.csState, execCapture_busError hprim ha⟩
  · exact ⟨_, _, _, execCapture_sinkError hk ha⟩

/-- A point that is not one of a capture's later points counts as its first (log 6). -/
theorem execCapture_of_not_capturePoint (hk : capturePoint s.pcSeq = false) : execCapture s = .next (captureFirst s) := by
  cases hp : s.pcSeq with
  | idle | start | delay | written | read | deselected => simp only [execCapture, hp]
  | _ =>
    rw [hp] at hk
    cases hk

/-- With the burst re-issued the interrupted store is completed (R203). -/
theorem execCapture_rotBurst {site : StoreSite} {v : Half} (hk : s.pcSeq = .rotBurst site) (ha : s.ans = .ok v)
    (hc : s.capCursor = 0) : execCapture s = afterStore site (withByte (storeByte site s) s) := by
  have room := room_of_empty hc
  simp only [execCapture, hk]
  unfold afterRotBurst
  split
  · next ha' =>
    rw [ha] at ha'
    cases ha'
  · rcases putByte_cases (storeByte site s) s with ⟨hfull, -⟩ | ⟨-, e⟩
    · omega
    · rw [e]
      rfl

theorem captureFirst_within (hle : s.hist.length ≤ base) : Within .capture captureLeft base (captureFirst s) := by
  unfold captureFirst
  split
  · exact EndsSilently.within (s := s) ⟨rfl, rfl⟩ rfl (hle.trans (Nat.le_add_right _ _))
  · refine within_ask (u := sessionInit s) ?_
    show s.hist.length + 1 + (1 + (pollsLeft (sessionInit s) + (openLeft (sessionInit s) + 3))) ≤ _
    rw [allowance_capture, pollsLeft_of_zero rfl]
    omega

/-- A step of CAPTURE that acts upon no answer lowers its potential. -/
theorem execCapture_within_unanswered (hk : awaitsAnswer s.pcSeq = false)
    (h : s.hist.length + captureLeft s ≤ base + allowance .capture s) :
    Allows (Within .capture captureLeft base) (execCapture s) := by
  cases hp : s.pcSeq with
  | csAsserted =>
    rw [execCapture_csAsserted hp]
    simp only [captureLeft, hp] at h
    refine within_ask (u := { s with csState := .asserted }) ?_
    show s.hist.length + 1 + streamLeft s.capRemain ≤ base + allowance .capture s
    omega
  | rotDeasserted site =>
    simp only [execCapture, hp]
    simp only [captureLeft, hp] at h
    refine flush_allows fun bytes => within_askSink (u := { s with csState := .deselected }) ?_
    show s.hist.length + 1 + (streamLeft s.capRemain + 2) ≤ base + allowance .capture s
    omega
  | rotAsserted site =>
    rw [execCapture_rotAsserted hp]
    simp only [captureLeft, hp] at h
    refine within_ask (u := { s with csState := .asserted }) ?_
    show s.hist.length + 1 + streamLeft s.capRemain ≤ base + allowance .capture s
    omega
  | eofDeasserted =>
    rw [execCapture_eofDeasserted hp]
    exact EndsSilently.within (s := s) ⟨rfl, rfl⟩ rfl (by omega)
  | exhausted =>
    rw [execCapture_exhausted hp]
    exact EndsSilently.within (s := s) ⟨rfl, rfl⟩ rfl (by omega)
  | idle | start | delay | written | read | deselected =>
    rw [execCapture_of_not_capturePoint (by rw [hp]; rfl)]
    simp only [captureLeft, hp] at h
    exact captureFirst_within (Nat.le_of_add_le_add_right h)
  | _ =>
    rw [hp] at hk
    cases hk

/-- A step of CAPTURE upon an `Ok` lowers its potential. -/
theorem execCapture_within_ok {v : Half} (hk : awaitsAnswer s.pcSeq = true) (ha : s.ans = .ok v)
    (hempty : emptyPoint s.pcSeq = true → s.capCursor = 0)
    (h : s.hist.length + captureLeft s ≤ base + allowance .capture s) :
    Allows (Within .capture captureLeft base) (execCapture s) := by
  cases hp : s.pcSeq with
  | armClear =>
    rw [execCapture_armClear hp ha]
    simp only [captureLeft, hp] at h
    refine within_ask (u := s) ?_
    show s.hist.length + 1 + (pollsLeft s + (openLeft s + 3)) ≤ _
    omega
  | armStart =>
    rw [execCapture_armStart hp ha]
    simp only [captureLeft, hp] at h
    exact pollAgain_within (u := { s with capState := .armed }) h
  | polled =>
    simp only [captureLeft, hp] at h
    by_cases hdone : v.setWidth 8 &&& s.cfg.maskCapDone = 0
    · rw [execCapture_polled_again hp ha hdone]
      exact pollAgain_within h
    · rw [execCapture_polled_done hp ha hdone]
      refine within_ask (u := { s with capState := .streaming }) ?_
      show s.hist.length + 1 + (openLeft s + 2) ≤ base + allowance .capture s
      omega
  | size1 =>
    rw [execCapture_size1 hp ha]
    simp only [captureLeft, hp] at h
    refine within_ask (u := { s with size1 := v.setWidth 8 }) ?_
    show s.hist.length + 1 + (openLeft s + 1) ≤ base + allowance .capture s
    omega
  | size2 =>
    rw [execCapture_size2 hp ha]
    simp only [captureLeft, hp] at h
    refine within_ask (u := { s with size2 := v.setWidth 8 }) ?_
    show s.hist.length + 1 + openLeft s ≤ base + allowance .capture s
    omega
  | size3 =>
    rw [execCapture_size3 hp ha]
    simp only [captureLeft, hp, allowance_capture] at h
    refine openBurst_within ?_
    rw [allowance_capture]
    show s.hist.length + _ ≤ base + (2 + (s.cfg.pollLimit + _))
    omega
  | burstOpen =>
    rw [execCapture_burstOpen hp ha]
    simp only [captureLeft, hp] at h
    exact streamNext_within h
  | pulled =>
    rw [execCapture_pulled hp ha]
    simp only [captureLeft, hp] at h
    exact examineWindow_within (u := slideWindow (v.setWidth 8) s) h
  | rotFlushed site =>
    rw [execCapture_rotFlushed hp ha]
    simp only [captureLeft, hp] at h
    refine within_signal
      (u := { s with capOut := s.capOut + BitVec.ofNat 32 s.cfg.bufCap, capCursor := 0 }) ?_
    show s.hist.length + 1 + (streamLeft s.capRemain + 1) ≤ base + allowance .capture s
    omega
  | rotBurst site =>
    have hc := hempty (by rw [hp]; rfl)
    rw [execCapture_rotBurst hp ha hc]
    simp only [captureLeft, hp] at h
    exact afterStore_withByte_within h hc site _
  | eofFlushed =>
    rw [execCapture_eofFlushed hp ha]
    simp only [captureLeft, hp] at h
    exact within_signal (u := { s with capOut := s.capOut + s.capCursor, inFrame := false, capCursor := 0 }) h
  | _ =>
    rw [hp] at hk
    cases hk

/-- Every step of CAPTURE lowers its potential by the primitive it issues. -/
theorem execCapture_within (hempty : emptyPoint s.pcSeq = true → s.capCursor = 0)
    (h : s.hist.length + captureLeft s ≤ base + allowance .capture s) :
    Allows (Within .capture captureLeft base) (execCapture s) := by
  cases hk : awaitsAnswer s.pcSeq with
  | false => exact execCapture_within_unanswered hk h
  | true =>
    cases ha : s.ans with
    | ok v => exact execCapture_within_ok hk ha hempty h
    | err =>
      obtain ⟨e, prim, c, hexec⟩ := execCapture_of_err hk ha
      rw [hexec]
      exact EndsSilently.within (s := s) ⟨rfl, rfl⟩ rfl (by omega)

/-- From its first step on, a capture has the buffer's invariant, whatever ABUF held before (R193). -/
def CaptureBuffer (s : State) : Prop := capturePoint s.pcSeq = true → BufferInv s

theorem captureFirst_buffer (s : State) : CaptureBuffer (captureFirst s) := by
  unfold captureFirst
  split
  · exact nofun
  · exact fun _ => (bufferInv_iff _).2 ⟨⟨Nat.zero_le _, nofun⟩, nofun, nofun⟩

/-- A step of CAPTURE keeps the buffer's invariant once it has it, and with it does not fault (R202, R322). -/
theorem execCapture_buffer (hs : CaptureBuffer s) : Proceeds CaptureBuffer (execCapture s) := by
  cases hk : capturePoint s.pcSeq with
  | false =>
    rw [execCapture_of_not_capturePoint hk]
    exact captureFirst_buffer s
  | true =>
    have move := execCapture_bufferMove s
    cases ho : execCapture s with
    | next t =>
      rw [ho] at move
      exact fun _ => move.bufferInv (hs hk)
    | fault r =>
      rw [ho] at move
      cases move with
      | faults unsound => exact Bool.eq_false_of_not_eq_true fun hr => unsound hr (hs hk)
    | refused r => exact (execCapture_move s).ne_refused r ho

/-- What every step of a capture keeps. -/
def CaptureInv (base : Nat) (s : State) : Prop := Within .capture captureLeft base s ∧ CaptureBuffer s

theorem execCapture_inv (hb : s.busy = true) (hs : CaptureInv base s) : Proceeds (CaptureInv base) (execCapture s) := by
  obtain ⟨hwithin, hbuffer⟩ := hs
  have hempty (hk : emptyPoint s.pcSeq = true) : s.capCursor = 0 := by
    have hcap : capturePoint s.pcSeq = true := by
      cases hp : s.pcSeq with
      | rotAsserted | rotBurst => rfl
      | _ =>
        rw [hp] at hk
        cases hk
    obtain ⟨-, -, hempty⟩ := (bufferInv_iff s).1 (hbuffer hcap)
    exact hempty hk
  exact (execCapture_buffer hbuffer).and_allows (execCapture_within hempty ((within_iff_of_busy hb).1 hwithin))

end

theorem capture_endsWithinBound {s : State} (hin : s.inputs = []) : EndsWithinBound .capture s :=
  endsWithinBound_of_invariant (I := CaptureInv s.hist.length) rfl hin ⟨(within_iff_of_busy rfl).2 le_rfl, nofun⟩
    (fun _ hb hI => execCapture_inv hb hI) fun _ ⟨hwithin, _⟩ => hwithin.hist_le

/-! ### Every command -/

theorem nmeaLine_proceeds (lbase llen : Half) (s : State) :
    Proceeds (EndsSilently s) (exec (.nmeaLine lbase llen) s) :=
  withBuffer_proceeds fun buffer => ⟨rfl, by rw [endLine, countLine_eq]; rfl⟩

theorem nmeaBuf_proceeds (lbase llen : Half) (s : State) : Proceeds (EndsSilently s) (exec (.nmeaBuf lbase llen) s) :=
  withBuffer_proceeds fun buffer => ⟨rfl, by rw [foldBuffer_eq]; rfl⟩

/-- Settles O60, unit by unit: the potential starts within the bound of R331, and every step lowers it. -/
theorem commandsEndWithinBound : Obligations.CommandsEndWithinBound := by
  intro i s hw _ hin
  show EndsWithinBound i s
  cases i with
  | nop => exact endsWithinBound_of_left (left := fun _ => 0) hw hin le_rfl fun _ _ h => h
  | wrA8D8 | wrA16D8 | wrA8D16 | wrA16D16 | wrTB =>
    exact endsWithinBound_of_left (left := wrLeft _) hw hin le_rfl fun u base h => by
      simp only [exec]
      exact wrCmd_within h
  | rdA8D8 | rdA16D8 | rdA8D16 | rdA16D16 | rdTB =>
    exact endsWithinBound_of_left (left := readLeft) hw hin (Nat.le_succ 1) fun u base h => by
      simp only [exec]
      exact rdCmd_within h
  | tblA8D8 | tblA16D8 | tblA8D16 | tblA16D16 =>
    exact endsWithinBound_of_left (left := tableLeft _ _) hw hin le_rfl fun u base h => by
      simp only [exec]
      exact tblCmd_within h
  | setbA8D8 | setbA16D8 | setbA8D16 | setbA16D16 | setbTB
  | clrbA8D8 | clrbA16D8 | clrbA8D16 | clrbA16D16 | clrbTB =>
    exact endsWithinBound_of_left (left := modifyLeft _) hw hin le_rfl fun u base h => by
      simp only [exec]
      exact modifyCmd_within h
  | getbA8D8 | getbA16D8 | getbA8D16 | getbA16D16 | getbTB =>
    exact endsWithinBound_of_left (left := readLeft) hw hin (Nat.le_add_right 1 2) fun u base h => by
      simp only [exec]
      exact getBitCmd_within h
  | capture => exact capture_endsWithinBound hin
  | deselect => exact endsWithinBound_of_left hw hin le_rfl fun _ _ h => execDeselect_within h
  | nmeaLine lbase llen =>
    exact endsWithinBound_of_left (left := fun _ => 0) hw hin le_rfl fun u _ h =>
      (nmeaLine_proceeds lbase llen u).mono fun t ht => ht.within rfl h
  | nmeaBuf lbase llen =>
    exact endsWithinBound_of_left (left := fun _ => 0) hw hin le_rfl fun u _ h =>
      (nmeaBuf_proceeds lbase llen u).mono fun t ht => ht.within rfl h

end Sys2Proof.Proofs
end
